-- ==== Sys2Proof/Word.lean ====
section
/-! DEFINITION. The bit-vector types of the core (spec/00_scope.md R7 to R11). -/

namespace Sys2Proof

/-- A register value, ALU operand or ALU result: `DATA_WIDTH = 4` bits, unsigned (R7). -/
abbrev Nibble := BitVec 4

/-- The address of a general register (R8). -/
abbrev RegAddr := BitVec 4

/-- A program-memory word address, which is what the program counter holds (R9, R10). -/
abbrev PAddr := BitVec 4

/-- A 4-bit operand field before the opcode says how it is read (R11, R51). -/
abbrev Operand := BitVec 4

/-- The 3-bit opcode field (R11). -/
abbrev Opcode := BitVec 3

/-- An instruction word: `IWORD_WIDTH = 11` bits, the one unit of program memory (R10, R36). -/
abbrev Word := BitVec 11

/-- A cadence in cycles per second: a positive integer (R13, R27). The bound is part of the type, so that no malformed
request can be written (R105, D21). -/
abbrev Rate := { hz : Nat // 0 < hz }

end Sys2Proof
end

