-- ==== Sys2Proof/Syntax.lean ====
section
/-! DEFINITION. The instructions of the opcode map (spec/30_encoding.md R50), the decoded triple, the pseudo-instructions and
the assembler's notation. -/

namespace Sys2Proof

/-- The decoded triple `(op, A, B)` (R32, R48): what decoding gives, and what the Exec and Capture requests carry (R78). -/
structure Fields where
  op : Opcode
  a : Operand
  b : Operand
  deriving DecidableEq, Repr

/-- The eight instructions, operand A before operand B as in the encoding (R50, R61). -/
inductive Instr where
  /-- `ADD rA, rB` (R65). -/
  | add (a b : RegAddr)
  /-- `SUB rA, rB` (R66). -/
  | sub (a b : RegAddr)
  /-- `MOV rA, rB`, from A to B (R71). -/
  | mov (src dst : RegAddr)
  /-- `IMMD rA, #B` (R72). -/
  | immd (dst : RegAddr) (value : Nibble)
  /-- `JMP_IF_ZERO #A, rB` (R74). -/
  | jmpIfZero (target : PAddr) (test : RegAddr)
  /-- `AND rA, rB` (R67). -/
  | and (a b : RegAddr)
  /-- `OR rA, rB` (R68). -/
  | or (a b : RegAddr)
  /-- `NOT rA, rB`, from A to B (R69). -/
  | not (src dst : RegAddr)
  deriving DecidableEq, Repr

/-- The operands an instruction uses as register addresses: all but IMMD's B and JMP_IF_ZERO's A (R51). -/
def Instr.registerOperands : Instr → List RegAddr
  | .add a b => [a, b]
  | .sub a b => [a, b]
  | .mov src dst => [src, dst]
  | .immd dst _ => [dst]
  | .jmpIfZero _ test => [test]
  | .and a b => [a, b]
  | .or a b => [a, b]
  | .not src dst => [src, dst]

/-- `NOP` is `MOV r0, r0` (R62, D9). -/
def Instr.nop : Instr := .mov 0 0

/-- `CLR rA` is `IMMD rA, #0` (R62, D9). -/
def Instr.clr (a : RegAddr) : Instr := .immd a 0

/-- `JMP #t, rZ` is `JMP_IF_ZERO #t, rZ`; it jumps only where `x[Z]` is zero (R62, D9). -/
def Instr.jmp (t : PAddr) (z : RegAddr) : Instr := .jmpIfZero t z

/-- `HALT rZ` at address `h` is `JMP_IF_ZERO #h, rZ` (R62, D9, D10). -/
def Instr.halt (h : PAddr) (z : RegAddr) : Instr := .jmpIfZero h z

/-- A register in the assembler's notation, `r0` to `r15` (R61). -/
def asmReg (r : RegAddr) : String := "r" ++ toString r.toNat

/-- A literal in the assembler's notation, `#n` in decimal (R61). -/
def asmLit (n : BitVec 4) : String := "#" ++ toString n.toNat

/-- The assembler's text of an instruction: mnemonic, operand A, operand B (R61, D8). -/
def Instr.asm : Instr → String
  | .add a b => "ADD " ++ asmReg a ++ ", " ++ asmReg b
  | .sub a b => "SUB " ++ asmReg a ++ ", " ++ asmReg b
  | .mov src dst => "MOV " ++ asmReg src ++ ", " ++ asmReg dst
  | .immd dst value => "IMMD " ++ asmReg dst ++ ", " ++ asmLit value
  | .jmpIfZero target test => "JMP_IF_ZERO " ++ asmLit target ++ ", " ++ asmReg test
  | .and a b => "AND " ++ asmReg a ++ ", " ++ asmReg b
  | .or a b => "OR " ++ asmReg a ++ ", " ++ asmReg b
  | .not src dst => "NOT " ++ asmReg src ++ ", " ++ asmReg dst

end Sys2Proof
end

