-- ==== Sys2Proof/Decode.lean ====
section
/-! DEFINITION. Decoding and encoding of the one 11-bit format, the bit codec and the serialized form
(spec/30_encoding.md R48 to R59). -/

namespace Sys2Proof

/-- `decode(w) = (w[10:8], w[7:4], w[3:0])` (R48, R49). -/
def wordFields (w : Word) : Fields where
  op := w.extractLsb' 8 3
  a := w.extractLsb' 4 4
  b := w.extractLsb' 0 4

/-- The opcode map: the instruction each opcode stands for, exhaustive on the 3-bit field (R50, R57, R60). -/
def instrOf (f : Fields) : Instr :=
  match (f.op.toFin : Fin 8) with
  | 0 => .add f.a f.b
  | 1 => .sub f.a f.b
  | 2 => .mov f.a f.b
  | 3 => .immd f.a f.b
  | 4 => .jmpIfZero f.a f.b
  | 5 => .and f.a f.b
  | 6 => .or f.a f.b
  | 7 => .not f.a f.b

/-- The instruction a word holds. Total: no 11-bit word is illegal, reserved or a hint (R49, R56). -/
def decode (w : Word) : Instr := instrOf (wordFields w)

/-- Why a number is no instruction word. Raised by `decodeNat` only; safe, since the core's own words cannot raise it. -/
inductive DecodeError where
  /-- The number needs more than the 11 bits of a word (R36, R58). -/
  | widerThanAWord
  deriving DecidableEq, Repr

/-- Decoding of a number of any size: the core has 11-bit words and no others (R36, R58). -/
def decodeNat (w : Nat) : Except DecodeError Instr :=
  if w < 2048 then .ok (decode (BitVec.ofNat 11 w)) else .error .widerThanAWord

/-- The instruction in the low `nbits` bits of `w`, as the opcode table numbers them: one word, bit 0 its least significant. -/
def decodeTableWord (nbits w : Nat) : Option Instr :=
  match decodeNat (w % 2 ^ nbits) with
  | .ok i => some i
  | .error _ => none

/-- The triple an instruction is encoded from (R50). -/
def Instr.fields : Instr → Fields
  | .add a b => ⟨0, a, b⟩
  | .sub a b => ⟨1, a, b⟩
  | .mov src dst => ⟨2, src, dst⟩
  | .immd dst value => ⟨3, dst, value⟩
  | .jmpIfZero target test => ⟨4, target, test⟩
  | .and a b => ⟨5, a, b⟩
  | .or a b => ⟨6, a, b⟩
  | .not src dst => ⟨7, src, dst⟩

/-- `encode(op, A, B) = {op(3), A(4), B(4)}` (R53). -/
def encodeFields (f : Fields) : Word := f.op ++ f.a ++ f.b

/-- `encode` on numbers: each field is first reduced to its width (R53). -/
def encodeNat (op a b : Nat) : Word := encodeFields ⟨BitVec.ofNat 3 op, BitVec.ofNat 4 a, BitVec.ofNat 4 b⟩

/-- The word of an instruction (R50, R53). -/
def encode (i : Instr) : Word := encodeFields i.fields

/-- `toBits(value, width)`: the bits of the value modulo 2^width, most significant first (R54). -/
def toBits (value : Int) (width : Nat) : List Bool :=
  (List.range width).map fun j => (value % 2 ^ width).toNat.testBit (width - 1 - j)

/-- `fromBits(bits)`: the sequence read as big-endian binary (R54). -/
def fromBits (bits : List Bool) : Nat := bits.foldl (fun n b => 2 * n + b.toNat) 0

/-- The serialized form of a word: its 11 bits, most significant first (R37, R59). -/
def serialize (w : Word) : List Bool := toBits w.toNat 11

end Sys2Proof
end

