-- ==== Sys2Proof/Config.lean ====
section
/-! DEFINITION. What the spec leaves to a named parameter, and the parameters that carry a value
(spec/00_scope.md section 4, spec/92_eei_decisions.md D18). The core has no value that is left free. -/

namespace Sys2Proof

/-- The parameters of the core that the spec leaves open. -/
structure Config where
  /-- `R15_IS_GENERAL` of D18 and U1: is register 15 an ordinary general register? With `false`, an instruction that names
  register 15 in an operand used as a register address faults. -/
  r15IsGeneral : Bool
  deriving DecidableEq, Repr

/-- The configuration the core runs in: the spec's default, register 15 is general (R8, R16, D2). DESIGN CHOICE, log entry 1:
unsafe, a claim about a program that names register 15 rests on it. -/
def Config.standard : Config := { r15IsGeneral := true }

/-- The other reading of the source, in which register 15 is reserved (D18, U1). -/
def Config.r15Reserved : Config := { r15IsGeneral := false }

/-- May an instruction use `r` as a register address under this configuration? -/
def Config.admits (cfg : Config) (r : RegAddr) : Bool := cfg.r15IsGeneral || r != 15

/-- The cadence after reset, 5 cycles per second (R13, R27, D7). -/
def Config.defaultRate : Rate := ⟨5, by decide⟩

end Sys2Proof
end

