-- ==== Sys2Proof/Machine/State.lean ====
section
/-! DEFINITION. The state of the core (spec/10_state.md R15), the events and responses of its interface
(spec/45_controller_and_loader.md R78 to R80), the reasons a step can stop, and the state after reset. -/

namespace Sys2Proof.Machine

/-- The controller's mode (R26). No binary code is fixed for it. -/
inductive Mode where
  | interactive
  | programming
  | running
  deriving DecidableEq, Repr

/-- The requests of the host, each field typed to its width (R78). -/
inductive Request where
  /-- `Reset` (R93). -/
  | reset
  /-- `Exec(op, A, B)` (R87). -/
  | exec (f : Fields)
  /-- `Begin` (R84). -/
  | beginCapture
  /-- `Capture(op, A, B)` (R85, R86). -/
  | capture (f : Fields)
  /-- `End` (R92). -/
  | endCapture
  /-- `Run(r)` (R88). -/
  | run (r : Rate)
  /-- `Stop` (R91). -/
  | stop
  deriving DecidableEq, Repr

/-- What one step takes: one request of the host or one Tick (R80). -/
inductive Event where
  | request (q : Request)
  | tick
  deriving DecidableEq, Repr

/-- The response presented after a step (R79). -/
inductive Response where
  | ok
  /-- The address a Capture wrote. -/
  | captured (a : PAddr)
  | outOfSequence
  /-- `None`, the response of a Tick. -/
  | none
  deriving DecidableEq, Repr

/-- Program memory: (address, word) pairs in one canonical form (`Memory.wf`); an unlisted address reads as 0x000, the reset
contents (R23, R34). The unit is the 11-bit word, since the core has no bytes (R36; log entry 4). -/
abbrev Memory := List (Nat × Word)

/-- The state of the core and of its interface. The first five fields are the spec's whole state `S` (R15); the last two are the
model's own. -/
structure State where
  /-- The sixteen general registers `x[0]` to `x[15]` (R16). -/
  x : Vector Nibble 16
  /-- The program counter, the document's "clock" (R19). -/
  pc : PAddr
  /-- Program memory (R23). -/
  pmem : Memory
  /-- The controller's mode (R26). -/
  mode : Mode
  /-- The cadence of the last Run request (R27). -/
  rate : Rate
  /-- The model's own: the events to come, oldest first (the input of R78 and R80). Where none is left, Ticks come. DESIGN
  CHOICE, log entry 2. -/
  inputs : List Event
  /-- The model's own: the response presented after the last step (the output of R79). DESIGN CHOICE, log entry 3. -/
  resp : Response
  deriving DecidableEq, Repr

/-- Why a step can fault. The core itself has no exception (R100). -/
inductive Fault where
  /-- Raised by `runCycle`, under `Config.r15Reserved` only: an instruction names register 15 in an operand used as a register
  address (D18, U1). Safe: that reading of the source gives the access no effect. Never raised in the configuration the core
  runs in. -/
  | register15Reserved
  deriving DecidableEq, Repr

/-- Why a step can be refused. Every instruction of the core has its meaning. -/
inductive Refusal where
  /-- Raised by an arm of `exec` for an instruction the model gives no meaning yet; no arm raises it. Safe. -/
  | notModelled (mnemonic : String)
  deriving DecidableEq, Repr

/-- The outcome of a step of this machine. -/
abbrev Result := Host.Outcome State Fault Refusal

/-- The power-on and reset state (R112 to R114): all registers, the program counter and all program words zero, mode Interactive,
rate 5. The values of the model's own fields, no event and `None`, are a DESIGN CHOICE (log entries 2 and 3). -/
def State.reset : State where
  x := Vector.replicate 16 0#4
  pc := 0#4
  pmem := []
  mode := .interactive
  rate := Config.defaultRate
  inputs := []
  resp := .none

end Sys2Proof.Machine
end

