-- ==== Sys2Proof/Machine/Ops.lean ====
section
/-! DEFINITION. The named operations over registers, program counter, program memory and interface, the fetch, the cycle every
instruction shares, and the snapshot. Taking an exception and returning from one have no operation here: the core has neither
(spec/60_exceptions.md R100, R101, R107). -/

namespace Sys2Proof.Machine

/-- `x[r]` (R14, R16). No register is hardwired (R18). -/
def State.readReg (s : State) (r : RegAddr) : Nibble := s.x[r.toNat]'r.isLt

/-- `x[r] <- v` (R14, R17). -/
def State.writeReg (s : State) (r : RegAddr) (v : Nibble) : State := { s with x := s.x.set r.toNat v r.isLt }

/-- `pc <- v`, the absolute set (R21). -/
def State.setPc (s : State) (v : PAddr) : State := { s with pc := v }

/-- `pc <- (pc + 1) mod 16`; nothing records the wrap (R20). -/
def State.incPc (s : State) : State := s.setPc (s.pc + 1)

/-- `mode <- m` (R26). -/
def State.setMode (s : State) (m : Mode) : State := { s with mode := m }

/-- `rate <- r` (R27). -/
def State.setRate (s : State) (r : Rate) : State := { s with rate := r }

/-- `resp <- v`: the step's response (R79). -/
def State.respond (s : State) (v : Response) : State := { s with resp := v }

/-- The word at an address: the listed one, else 0x000 (R23, R36). -/
def Memory.read : Memory → Nat → Word
  | [], _ => 0#11
  | (b, v) :: rest, a => if a = b then v else Memory.read rest a

/-- The memory without an entry at `a`, which then reads as 0x000. -/
def Memory.erase (m : Memory) (a : Nat) : Memory := m.filter fun c => c.1 != a

/-- The memory with one more entry, in its place by address. -/
def Memory.insert : Memory → Nat → Word → Memory
  | [], a, w => [(a, w)]
  | (b, v) :: rest, a, w => if a < b then (a, w) :: (b, v) :: rest else (b, v) :: Memory.insert rest a w

/-- The memory after writing `w` at `a`: writing what an unlisted address reads as removes the entry, so equal memories stay
equal data. -/
def Memory.write (m : Memory) (a : Nat) (w : Word) : Memory :=
  if w = 0#11 then Memory.erase m a else Memory.insert (Memory.erase m a) a w

/-- The entries from address `lo` on: strictly rising, inside the 16 words, none zero. -/
def Memory.wfFrom : Nat → Memory → Bool
  | _, [] => true
  | lo, (a, w) :: rest => decide (lo ≤ a) && decide (a < 16) && decide (w ≠ 0#11) && Memory.wfFrom (a + 1) rest

/-- The canonical form of program memory. -/
def Memory.wf (m : Memory) : Bool := Memory.wfFrom 0 m

/-- `MemRead(a, 1)` (R14, R36). The 4-bit address names exactly the 16 words, so no access is out of range (R34, R38). -/
def State.readWord (s : State) (a : PAddr) : Word := Memory.read s.pmem a.toNat

/-- `MemWrite(a, 1, w)`; only the loader calls it (R14, R36, R39). -/
def State.writeWord (s : State) (a : PAddr) (w : Word) : State := { s with pmem := Memory.write s.pmem a.toNat w }

/-- The instruction of a Running cycle: the word at `pc`, decoded (R89). -/
def State.fetch (s : State) : Instr := decode (s.readWord s.pc)

/-- The event the next step takes: the oldest to come, and a Tick where the host presents nothing (R80, R90, R111; log entry 2). -/
def State.nextEvent (s : State) : Event := s.inputs.headD .tick

/-- The state whose next event has been taken. -/
def State.dropEvent (s : State) : State := { s with inputs := s.inputs.tail }

/-- What dispatching an instruction gives: `dispatch(op, A, B, S) -> (S', jumped)` (R60). -/
structure Dispatched where
  state : State
  jumped : Bool
  deriving DecidableEq, Repr

/-- The controller's part of a cycle: exactly one increment unless the instruction jumped (R75). -/
def Dispatched.advance (d : Dispatched) : State := if d.jumped then d.state else d.state.incPc

/-- One cycle of an instruction whose register operands are `regs`: dispatch, then the default increment (R75, R96). It faults
only under a configuration that lacks one of the registers named (D18). -/
def runCycle (cfg : Config) (regs : List RegAddr) (effect : State → Dispatched) (s : State) : Result :=
  if regs.all cfg.admits then .next (effect s).advance else .fault .register15Reserved

/-- Apply `f` to the next state, if there is one. -/
def mapNext (f : State → State) : Result → Result
  | .next t => .next (f t)
  | .fault r => .fault r
  | .refused r => .refused r

/-- The snapshot: the full visible state, which leaves out `rate` (R30, R79). -/
structure Snapshot where
  x : Vector Nibble 16
  pmem : Vector Word 16
  pc : PAddr
  mode : Mode
  deriving DecidableEq, Repr

/-- The snapshot the core presents in a state (R79). -/
def State.snapshot (s : State) : Snapshot where
  x := s.x
  pmem := Vector.ofFn fun a : Fin 16 => Memory.read s.pmem a
  pc := s.pc
  mode := s.mode

/-- The word in the low `nbits` bits of `w`; a table word has no bit above its 11. -/
def tableWord (nbits w : Nat) : Word := BitVec.ofNat 11 (w % 2 ^ nbits)

/-- The events to come with a Tick first: none left already means a Tick. -/
def tickFirst : List Event → List Event
  | [] => []
  | e :: rest => .tick :: e :: rest

/-- The state in which the very next step is a Running cycle that fetches `w`: `w` stands at `pc`, the mode is Running and a Tick
comes first (R89; log entry 5). -/
def State.placeFetchWord (s : State) (w : Word) : State :=
  { (s.writeWord s.pc w).setMode .running with inputs := tickFirst s.inputs }

end Sys2Proof.Machine
end

