-- ==== Sys2Proof/Machine/Operands.lean ====
section
/-! DEFINITION. The operand forms (spec/30_encoding.md R51, R52), the ALU's results on them (spec/40_alu.md), and which registers
each instruction reads and writes (spec/10_state.md R31). -/

namespace Sys2Proof.Machine

/-- IMMD's B: the field value as is, with no extension, scaling or shift (R51, R52). -/
def literalValue (field : Operand) : Nibble := field

/-- JMP_IF_ZERO's A: the field value as is, an absolute program-memory address (R51, R52, R76). -/
def literalTarget (field : Operand) : PAddr := field

/-- `(x + y) mod 16`, no carry kept (R65). -/
def aluAdd (x y : Nibble) : Nibble := x + y

/-- `(x - y) mod 16`, no borrow kept (R66). -/
def aluSub (x y : Nibble) : Nibble := x - y

/-- Bitwise AND (R67). -/
def aluAnd (x y : Nibble) : Nibble := x &&& y

/-- Bitwise OR (R68). -/
def aluOr (x y : Nibble) : Nibble := x ||| y

/-- Bitwise NOT, kept to 4 bits (R69). -/
def aluNot (x : Nibble) : Nibble := ~~~x

/-- The register ADD, SUB, AND and OR write, whatever their operands (R18, R64). -/
def aluDestination : RegAddr := 0#4

/-- The registers an instruction reads (R31). -/
def registersRead : Instr → List RegAddr
  | .add a b => [a, b]
  | .sub a b => [a, b]
  | .mov src _ => [src]
  | .immd _ _ => []
  | .jmpIfZero _ test => [test]
  | .and a b => [a, b]
  | .or a b => [a, b]
  | .not src _ => [src]

/-- The register an instruction writes, at most one (R31). -/
def registerWritten : Instr → Option RegAddr
  | .add _ _ => some aluDestination
  | .sub _ _ => some aluDestination
  | .mov _ dst => some dst
  | .immd dst _ => some dst
  | .jmpIfZero _ _ => none
  | .and _ _ => some aluDestination
  | .or _ _ => some aluDestination
  | .not _ dst => some dst

end Sys2Proof.Machine
end

