-- ==== Sys2Proof/Machine/Alu.lean ====
section
/-! DEFINITION. ADD, SUB, AND, OR and NOT (spec/40_alu.md). For each, its dispatch (the effect on the registers, R60) and its
meaning (the whole cycle with the advance of the program counter, R96). Sources are read before the destination is written
(R64). -/

namespace Sys2Proof.Machine

/-- The shared shape of ADD, SUB, AND and OR: `x[0] <- f(x[A], x[B])`, no jump (R64). -/
def dispatchAlu (f : Nibble → Nibble → Nibble) (a b : RegAddr) (s : State) : Dispatched :=
  ⟨s.writeReg aluDestination (f (s.readReg a) (s.readReg b)), false⟩

/-- ADD: `x[0] <- (x[A] + x[B]) mod 16` (R65). -/
def dispatchAdd (a b : RegAddr) (s : State) : Dispatched := dispatchAlu aluAdd a b s

/-- SUB: `x[0] <- (x[A] - x[B]) mod 16` (R66). -/
def dispatchSub (a b : RegAddr) (s : State) : Dispatched := dispatchAlu aluSub a b s

/-- AND: `x[0] <- x[A] & x[B]` (R67). -/
def dispatchAnd (a b : RegAddr) (s : State) : Dispatched := dispatchAlu aluAnd a b s

/-- OR: `x[0] <- x[A] | x[B]` (R68). -/
def dispatchOr (a b : RegAddr) (s : State) : Dispatched := dispatchAlu aluOr a b s

/-- NOT: `x[B] <- (~x[A]) & 15` (R69). -/
def dispatchNot (src dst : RegAddr) (s : State) : Dispatched := ⟨s.writeReg dst (aluNot (s.readReg src)), false⟩

/-- The cycle of ADD (R65, R75). -/
def execAdd (a b : RegAddr) (s : State) : Result := runCycle Config.standard [a, b] (dispatchAdd a b) s

/-- The cycle of SUB (R66, R75). -/
def execSub (a b : RegAddr) (s : State) : Result := runCycle Config.standard [a, b] (dispatchSub a b) s

/-- The cycle of AND (R67, R75). -/
def execAnd (a b : RegAddr) (s : State) : Result := runCycle Config.standard [a, b] (dispatchAnd a b) s

/-- The cycle of OR (R68, R75). -/
def execOr (a b : RegAddr) (s : State) : Result := runCycle Config.standard [a, b] (dispatchOr a b) s

/-- The cycle of NOT (R69, R75). -/
def execNot (src dst : RegAddr) (s : State) : Result := runCycle Config.standard [src, dst] (dispatchNot src dst) s

end Sys2Proof.Machine
end

