-- ==== Sys2Proof/Machine/Flags.lean ====
section
/-! DEFINITION. The core has no flags or condition codes (spec/10_state.md R24): no instruction sets one and this file computes
none. The one condition of the instruction set is JMP_IF_ZERO's test of a general register. -/

namespace Sys2Proof.Machine

/-- Is the register zero? The condition of JMP_IF_ZERO, read from the register itself (R24, R74). -/
def State.testsZero (s : State) (r : RegAddr) : Bool := s.readReg r == 0#4

end Sys2Proof.Machine
end

