-- ==== Sys2Proof/Machine/Control.lean ====
section
/-! DEFINITION. JMP_IF_ZERO, the only control transfer (spec/42_control.md). -/

namespace Sys2Proof.Machine

/-- JMP_IF_ZERO: `pc <- A` and jumped if `x[B]` is zero, else nothing (R74). -/
def dispatchJmpIfZero (target : PAddr) (test : RegAddr) (s : State) : Dispatched :=
  if s.testsZero test then ⟨s.setPc (literalTarget target), true⟩ else ⟨s, false⟩

/-- The cycle of JMP_IF_ZERO: a taken jump suppresses the increment (R74, R75). -/
def execJmpIfZero (target : PAddr) (test : RegAddr) (s : State) : Result :=
  runCycle Config.standard [test] (dispatchJmpIfZero target test) s

end Sys2Proof.Machine
end

