-- ==== Sys2Proof/Machine/Move.lean ====
section
/-! DEFINITION. MOV and IMMD (spec/41_move.md). -/

namespace Sys2Proof.Machine

/-- MOV: `x[B] <- x[A]` (R71). -/
def dispatchMov (src dst : RegAddr) (s : State) : Dispatched := ⟨s.writeReg dst (s.readReg src), false⟩

/-- IMMD: `x[A] <- B`, the literal (R72). -/
def dispatchImmd (dst : RegAddr) (value : Nibble) (s : State) : Dispatched := ⟨s.writeReg dst (literalValue value), false⟩

/-- The cycle of MOV (R71, R75). -/
def execMov (src dst : RegAddr) (s : State) : Result := runCycle Config.standard [src, dst] (dispatchMov src dst) s

/-- The cycle of IMMD (R72, R75). -/
def execImmd (dst : RegAddr) (value : Nibble) (s : State) : Result := runCycle Config.standard [dst] (dispatchImmd dst value) s

end Sys2Proof.Machine
end

