-- ==== Sys2Proof/Machine/Dispatch.lean ====
section
/-! DEFINITION. One cycle of an instruction, `exec(S, op, A, B)` of spec/45_controller_and_loader.md R96: one arm per
constructor of Instr. -/

namespace Sys2Proof.Machine

def exec (i : Instr) (s : State) : Host.Outcome State Fault Refusal :=
  match i with
  | .add a b => Sys2Proof.Machine.execAdd a b s
  | .sub a b => Sys2Proof.Machine.execSub a b s
  | .mov src dst => Sys2Proof.Machine.execMov src dst s
  | .immd dst value => Sys2Proof.Machine.execImmd dst value s
  | .jmpIfZero target test => Sys2Proof.Machine.execJmpIfZero target test s
  | .and a b => Sys2Proof.Machine.execAnd a b s
  | .or a b => Sys2Proof.Machine.execOr a b s
  | .not src dst => Sys2Proof.Machine.execNot src dst s

end Sys2Proof.Machine
end

