-- ==== Sys2Proof/Machine/Controller.lean ====
section
/-! DEFINITION. The execution controller and the program loader: which request each mode accepts, what each does, and one step
on one event (spec/45_controller_and_loader.md R82 to R97). -/

namespace Sys2Proof.Machine

/-- `dispatch(op, A, B, S)`: an exhaustive case on the eight instructions (R60). -/
def dispatch (i : Instr) (s : State) : Dispatched :=
  match i with
  | .add a b => dispatchAdd a b s
  | .sub a b => dispatchSub a b s
  | .mov src dst => dispatchMov src dst s
  | .immd dst value => dispatchImmd dst value s
  | .jmpIfZero target test => dispatchJmpIfZero target test s
  | .and a b => dispatchAnd a b s
  | .or a b => dispatchOr a b s
  | .not src dst => dispatchNot src dst s

/-- A cycle of an instruction under any value of the spec's open parameter (D18, U1). `exec` is this under `Config.standard`. -/
def execUnder (cfg : Config) (i : Instr) (s : State) : Result := runCycle cfg i.registerOperands (dispatch i) s

/-- Which request each mode accepts (R82). -/
def accepts : Request → Mode → Bool
  | .reset, _ => true
  | .exec _, m => m == .interactive
  | .beginCapture, m => m == .interactive
  | .capture _, m => m == .programming
  | .endCapture, m => m == .programming
  | .run _, m => m == .interactive
  | .stop, m => m == .running

/-- `Reset`: the reset state, with the response Ok (R93, R112). The events to come belong to the environment and stay (log
entry 8). -/
def performReset (s : State) : State := { State.reset with inputs := s.inputs, resp := .ok }

/-- `Exec(op, A, B)`: one Interactive cycle; no fetch, no decode (R87). -/
def performExec (f : Fields) (s : State) : Result := mapNext (fun t => t.respond .ok) (exec (instrOf f) s)

/-- `Begin`: Programming mode, pc 0, nothing cleared (R84). -/
def performBegin (s : State) : State := ((s.setMode .programming).setPc 0#4).respond .ok

/-- The end of capture, by End or of itself: Interactive mode, pc 0 (R86, R92). -/
def leaveCapture (s : State) : State := (s.setMode .interactive).setPc 0#4

/-- `Capture(op, A, B)`: the word goes to the address in pc, pc advances, and the capture of address 15 ends capture (R85, R86). -/
def performCapture (f : Fields) (s : State) : State :=
  let written := ((s.writeWord s.pc (encodeFields f)).incPc).respond (.captured s.pc)
  if s.pc = 15#4 then leaveCapture written else written

/-- `End`: capture ends early; uncaptured words keep their values (R92). -/
def performEnd (s : State) : State := (leaveCapture s).respond .ok

/-- `Run(r)`: Running mode, pc 0, the cadence taken; no instruction runs yet (R88). -/
def performRun (r : Rate) (s : State) : State := (((s.setMode .running).setPc 0#4).setRate r).respond .ok

/-- `Stop`: Interactive mode and nothing else (R91). -/
def performStop (s : State) : State := (s.setMode .interactive).respond .ok

/-- An accepted request (R84 to R93, R96). -/
def perform (q : Request) (s : State) : Result :=
  match q with
  | .reset => .next (performReset s)
  | .exec f => performExec f s
  | .beginCapture => .next (performBegin s)
  | .capture f => .next (performCapture f s)
  | .endCapture => .next (performEnd s)
  | .run r => .next (performRun r s)
  | .stop => .next (performStop s)

/-- A request the mode does not accept: "reported, ignored, state unchanged" (R83, R102, R103). -/
def reportOutOfSequence (s : State) : State := s.respond .outOfSequence

/-- `Tick`: one Running cycle in Running mode, nothing in the others (R89, R90). -/
def performTick (s : State) : Result :=
  match s.mode with
  | .running => mapNext (fun t => t.respond .none) (exec s.fetch s)
  | .interactive => .next (s.respond .none)
  | .programming => .next (s.respond .none)

/-- `Step(S, e)`: the step on one event (R96). -/
def stepEvent (e : Event) (s : State) : Result :=
  match e with
  | .request q => if accepts q s.mode then perform q s else .next (reportOutOfSequence s)
  | .tick => performTick s

end Sys2Proof.Machine
end

