-- ==== Sys2Proof/Machine/Step.lean ====
section
/-! DEFINITION. One step of the core: the next event is taken and acted on (spec/45_controller_and_loader.md R80, R96). -/

namespace Sys2Proof.Machine

/-- One step: exactly one event (R80, R81). -/
def step (s : State) : Host.Outcome State Fault Refusal := stepEvent s.nextEvent s.dropEvent

/-- `s` with the instruction in the low `nbits` bits of `w` where the next step fetches, and with all it takes that the next step
is that fetch (log entry 5). -/
def State.withFetchWord (s : State) (nbits w : Nat) : State := s.placeFetchWord (tableWord nbits w)

end Sys2Proof.Machine
end

