-- ==== Sys2Proof/Machine/Session.lean ====
section
/-! DEFINITION. The event sequences of a host that loads words and starts a run (spec/70_reset_and_hazards.md R117). They are the
environment's, in the terms claims use. -/

namespace Sys2Proof.Machine

/-- One Capture for each triple, in address order (R117). -/
def captureEvents (words : List Fields) : List Event := words.map fun f => .request (.capture f)

/-- Begin, the captures, and End where the sixteenth capture has not ended capture by itself (R117, steps 2 to 4). -/
def loadEvents (words : List Fields) : List Event :=
  .request .beginCapture :: captureEvents words ++ if words.length < 16 then [.request .endCapture] else []

/-- Reset, the loading and Run (R117, steps 1 to 4 and 6). -/
def bootEvents (words : List Fields) (r : Rate) : List Event :=
  .request .reset :: loadEvents words ++ [.request (.run r)]

end Sys2Proof.Machine
end

