-- ==== Sys2Proof/Safety.lean ====
section
/-! DEFINITION. The terms claims use: the invariant of the state, what an instruction or a refused request leaves alone, the
halted state (spec/45_controller_and_loader.md R99) and a safe state. -/

namespace Sys2Proof.Safety

open Sys2Proof.Machine

/-- The invariant of every state a run can reach: program memory is in its canonical form, so that it lists nothing outside the
16 words the core has (R34). -/
abbrev Inv (s : State) : Prop := Memory.wf s.pmem = true

/-- Nothing of the spec's state `S` differs (R15): every register, the program counter, every program word, the mode, the rate. -/
structure SameCore (s t : State) : Prop where
  registers : ∀ r, t.readReg r = s.readReg r
  pc : t.pc = s.pc
  words : ∀ a, t.readWord a = s.readWord a
  mode : t.mode = s.mode
  rate : t.rate = s.rate

/-- What no instruction touches (R64, R73, R25): program memory, mode, rate, and the interface's input and output. -/
structure KeepsAllButRegistersAndPc (s t : State) : Prop where
  words : ∀ a, t.readWord a = s.readWord a
  mode : t.mode = s.mode
  rate : t.rate = s.rate
  inputs : t.inputs = s.inputs
  resp : t.resp = s.resp

/-- The `pc` column of the table of R31: JMP_IF_ZERO's target where the tested register is zero, else the increment. -/
def pcAfter (i : Instr) (s : State) : PAddr :=
  match i with
  | .jmpIfZero target test => if s.readReg test = 0#4 then target else s.pc + 1
  | .add _ _ => s.pc + 1
  | .sub _ _ => s.pc + 1
  | .mov _ _ => s.pc + 1
  | .immd _ _ => s.pc + 1
  | .and _ _ => s.pc + 1
  | .or _ _ => s.pc + 1
  | .not _ _ => s.pc + 1

/-- The instruction the next step runs, if it runs one: the fetched one on a Tick in Running mode, the submitted one on an Exec in
Interactive mode (R87, R89), and in no other case (R40, R82). -/
inductive Runs (s : State) : Instr → Prop where
  | fetched : s.nextEvent = .tick → s.mode = .running → Runs s (decode (s.readWord s.pc))
  | submitted (f : Fields) : s.nextEvent = .request (.exec f) → s.mode = .interactive → Runs s (instrOf f)

/-- The state is `halted` (R99): Running, the word at pc jumps to itself, and the register it tests is zero. -/
def halted (s : State) : Bool :=
  s.mode == .running &&
    match s.fetch with
    | .jmpIfZero target test => target == s.pc && s.readReg test == 0
    | .add _ _ => false
    | .sub _ _ => false
    | .mov _ _ => false
    | .immd _ _ => false
    | .and _ _ => false
    | .or _ _ => false
    | .not _ _ => false

/-- A state from which the step goes on: neither a fault nor a refusal (R100). -/
def Safe (s : State) : Prop := ∃ t, step s = .next t

end Sys2Proof.Safety
end

