-- ==== Sys2Proof/WellFormed.lean ====
section
/-! DEFINITION. Which instructions and which sequences of captured words are well formed. Every field is typed to its width, so
the only checks left are the spec's open parameter on register 15 (D18) and the size of program memory (R61, R117). -/

namespace Sys2Proof

/-- An instruction is well formed under a configuration when that configuration has every register the instruction names. Under
`Config.standard` all are: every value of A and B is valid in every opcode (R56). -/
def Instr.wellFormed (cfg : Config) (i : Instr) : Bool := i.registerOperands.all cfg.admits

/-- A sequence of words that one Begin can load: at least one, at most the 16 of program memory (R61, R117). -/
def loadable (words : List Fields) : Bool := decide (1 ≤ words.length) && decide (words.length ≤ 16)

end Sys2Proof
end

