-- ==== Sys2Proof/Certificates/Slice0/Obligations.lean ====
section
/-! DEFINITION. The statements about the model: encoding, the eight instructions, the step, the controller and the loader, and the
properties of every step and every run. A statement of basis 'derived' says in its docstring what it rests on. -/

open Sys2Proof Sys2Proof.Machine Sys2Proof.Safety

/-- Encoding concatenates the fields after reducing each to its width, and decoding and encoding undo each other, for every
instruction with every operand and for every 11-bit word (R53, whose reduction and round trip the spec marks as derived). -/
def Obligations.DecodeAndEncodeAreInverse : Prop :=
  (∀ i : Instr, decode (encode i) = i) ∧ (∀ w : Word, encode (decode w) = w) ∧
    ∀ op a b : Nat,
      (encodeNat op a b).toNat = (op % 8) * 256 + (a % 16) * 16 + b % 16 ∧
      (wordFields (encodeNat op a b)).op.toNat = op % 8 ∧
      (wordFields (encodeNat op a b)).a.toNat = a % 16 ∧
      (wordFields (encodeNat op a b)).b.toNat = b % 16

/-- R50: under the mask 0x700 each of the eight match values is one instruction, with A from bits 7..4 and B from bits 3..0,
for every word. -/
def Obligations.OpcodeMapDecidesEveryWord : Prop :=
  ∀ w : Word,
    (w &&& 0x700#11 = 0x000#11 ↔ decode w = .add (w.extractLsb' 4 4) (w.extractLsb' 0 4)) ∧
    (w &&& 0x700#11 = 0x100#11 ↔ decode w = .sub (w.extractLsb' 4 4) (w.extractLsb' 0 4)) ∧
    (w &&& 0x700#11 = 0x200#11 ↔ decode w = .mov (w.extractLsb' 4 4) (w.extractLsb' 0 4)) ∧
    (w &&& 0x700#11 = 0x300#11 ↔ decode w = .immd (w.extractLsb' 4 4) (w.extractLsb' 0 4)) ∧
    (w &&& 0x700#11 = 0x400#11 ↔ decode w = .jmpIfZero (w.extractLsb' 4 4) (w.extractLsb' 0 4)) ∧
    (w &&& 0x700#11 = 0x500#11 ↔ decode w = .and (w.extractLsb' 4 4) (w.extractLsb' 0 4)) ∧
    (w &&& 0x700#11 = 0x600#11 ↔ decode w = .or (w.extractLsb' 4 4) (w.extractLsb' 0 4)) ∧
    (w &&& 0x700#11 = 0x700#11 ↔ decode w = .not (w.extractLsb' 4 4) (w.extractLsb' 0 4))

/-- A few words of spec/95_test_vectors.md, written out bit by bit, decode to the instructions they stand for. -/
def Obligations.WrittenWordsDecodeToTheirInstructions : Prop :=
  decode 0b00000010010#11 = .add 1 2 ∧ decode 0b00100010010#11 = .sub 1 2 ∧ decode 0b01010100101#11 = .mov 10 5 ∧
    decode 0b01100010101#11 = .immd 1 5 ∧ decode 0b10001010010#11 = .jmpIfZero 5 2 ∧ decode 0b10100010010#11 = .and 1 2 ∧
    decode 0b11000010010#11 = .or 1 2 ∧ decode 0b11111111111#11 = .not 15 15

/-- R48: `w = op*256 + A*16 + B` with op = w[10:8], A = w[7:4], B = w[3:0]. -/
def Obligations.WordSplitsIntoOpcodeAndOperands : Prop :=
  ∀ w : Word,
    (wordFields w).op.toNat = w.toNat / 256 ∧ (wordFields w).a.toNat = w.toNat / 16 % 16 ∧
    (wordFields w).b.toNat = w.toNat % 16 ∧
    w.toNat = (wordFields w).op.toNat * 256 + (wordFields w).a.toNat * 16 + (wordFields w).b.toNat ∧
    encodeFields (wordFields w) = w

/-- R55: `fromBits(toBits(v, w)) == v mod 2^w` for all integers v and widths w ≥ 1, and for all 4-bit v the value itself. -/
def Obligations.BitCodecRoundTripReducesModuloWidth : Prop :=
  (∀ (v : Int) (w : Nat), 1 ≤ w → (fromBits (toBits v w) : Int) = v % 2 ^ w) ∧
    ∀ v : BitVec 4, fromBits (toBits v.toNat 4) = v.toNat

/-- R54: toBits gives the bits of the value modulo 2^width, most significant first; fromBits sums the bits by their weights.
-/
def Obligations.BitCodecIsMostSignificantBitFirst : Prop :=
  (∀ (v : Int) (w j : Nat), j < w →
      (toBits v w).length = w ∧ (toBits v w)[j]? = some (decide ((v % 2 ^ w).toNat / 2 ^ (w - 1 - j) % 2 = 1))) ∧
    ∀ bits : List Bool,
      fromBits bits = ∑ i ∈ Finset.range bits.length, (bits.reverse.getD i false).toNat * 2 ^ i

/-- The serialized form of an instruction is opcode, then A, then B, each most significant bit first; `IMMD r1, 5` serializes
as 011 0001 0101, that is 0x315 (R59, whose example the spec marks as derived). -/
def Obligations.SerializedFormIsOpcodeThenAThenB : Prop :=
  (∀ i : Instr,
      serialize (encode i) = toBits i.fields.op.toNat 3 ++ toBits i.fields.a.toNat 4 ++ toBits i.fields.b.toNat 4) ∧
    encode (.immd 1 5) = 0x315#11 ∧
    serialize 0x315#11 = [false, true, true, false, false, false, true, false, true, false, true]

/-- R65: the encoding, the effect and the frame of ADD, for every operand pair and every state. -/
def Obligations.AddWritesWrappedSumToRegisterZero : Prop :=
  ∀ (a b : RegAddr) (s : State),
    encode (.add a b) = 0b000#3 ++ a ++ b ∧ encode (.add a b) &&& 0x700#11 = 0x000#11 ∧
    ∃ t, exec (.add a b) s = .next t ∧
      (t.readReg 0#4).toNat = ((s.readReg a).toNat + (s.readReg b).toNat) % 16 ∧
      (∀ r, r ≠ 0#4 → t.readReg r = s.readReg r) ∧
      t.pc.toNat = (s.pc.toNat + 1) % 16 ∧ KeepsAllButRegistersAndPc s t

/-- R66: the encoding, the effect and the frame of SUB, for every operand pair and every state. -/
def Obligations.SubWritesWrappedDifferenceToRegisterZero : Prop :=
  ∀ (a b : RegAddr) (s : State),
    encode (.sub a b) = 0b001#3 ++ a ++ b ∧ encode (.sub a b) &&& 0x700#11 = 0x100#11 ∧
    ∃ t, exec (.sub a b) s = .next t ∧
      ((t.readReg 0#4).toNat : Int) = ((s.readReg a).toNat - (s.readReg b).toNat : Int) % 16 ∧
      (∀ r, r ≠ 0#4 → t.readReg r = s.readReg r) ∧
      t.pc.toNat = (s.pc.toNat + 1) % 16 ∧ KeepsAllButRegistersAndPc s t

/-- R67: the encoding, the effect bit by bit and the frame of AND, for every operand pair and every state. -/
def Obligations.AndWritesBitwiseAndToRegisterZero : Prop :=
  ∀ (a b : RegAddr) (s : State),
    encode (.and a b) = 0b101#3 ++ a ++ b ∧ encode (.and a b) &&& 0x700#11 = 0x500#11 ∧
    ∃ t, exec (.and a b) s = .next t ∧
      (∀ k, (t.readReg 0#4).getLsbD k = ((s.readReg a).getLsbD k && (s.readReg b).getLsbD k)) ∧
      (∀ r, r ≠ 0#4 → t.readReg r = s.readReg r) ∧
      t.pc.toNat = (s.pc.toNat + 1) % 16 ∧ KeepsAllButRegistersAndPc s t

/-- R68: the encoding, the effect bit by bit and the frame of OR, for every operand pair and every state. -/
def Obligations.OrWritesBitwiseOrToRegisterZero : Prop :=
  ∀ (a b : RegAddr) (s : State),
    encode (.or a b) = 0b110#3 ++ a ++ b ∧ encode (.or a b) &&& 0x700#11 = 0x600#11 ∧
    ∃ t, exec (.or a b) s = .next t ∧
      (∀ k, (t.readReg 0#4).getLsbD k = ((s.readReg a).getLsbD k || (s.readReg b).getLsbD k)) ∧
      (∀ r, r ≠ 0#4 → t.readReg r = s.readReg r) ∧
      t.pc.toNat = (s.pc.toNat + 1) % 16 ∧ KeepsAllButRegistersAndPc s t

/-- R69: the encoding, the effect and the frame of NOT, for every operand pair and every state. -/
def Obligations.NotWritesFourBitComplementToOperandB : Prop :=
  ∀ (src dst : RegAddr) (s : State),
    encode (.not src dst) = 0b111#3 ++ src ++ dst ∧ encode (.not src dst) &&& 0x700#11 = 0x700#11 ∧
    ∃ t, exec (.not src dst) s = .next t ∧
      (t.readReg dst).toNat = 15 - (s.readReg src).toNat ∧
      (∀ r, r ≠ dst → t.readReg r = s.readReg r) ∧
      t.pc.toNat = (s.pc.toNat + 1) % 16 ∧ KeepsAllButRegistersAndPc s t

/-- R71: the encoding, the effect and the frame of MOV, for every operand pair and every state; the frame says that A is
unchanged where it is not B, and the effect says so where it is. -/
def Obligations.MovCopiesOperandAIntoOperandB : Prop :=
  ∀ (src dst : RegAddr) (s : State),
    encode (.mov src dst) = 0b010#3 ++ src ++ dst ∧ encode (.mov src dst) &&& 0x700#11 = 0x200#11 ∧
    ∃ t, exec (.mov src dst) s = .next t ∧
      t.readReg dst = s.readReg src ∧ t.readReg src = s.readReg src ∧
      (∀ r, r ≠ dst → t.readReg r = s.readReg r) ∧
      t.pc.toNat = (s.pc.toNat + 1) % 16 ∧ KeepsAllButRegistersAndPc s t

/-- R72: the encoding, the effect and the frame of IMMD, for every register, literal and state. -/
def Obligations.ImmdWritesItsLiteralToOperandA : Prop :=
  ∀ (dst : RegAddr) (value : Nibble) (s : State),
    encode (.immd dst value) = 0b011#3 ++ dst ++ value ∧ encode (.immd dst value) &&& 0x700#11 = 0x300#11 ∧
    ∃ t, exec (.immd dst value) s = .next t ∧
      t.readReg dst = value ∧
      (∀ r, r ≠ dst → t.readReg r = s.readReg r) ∧
      t.pc.toNat = (s.pc.toNat + 1) % 16 ∧ KeepsAllButRegistersAndPc s t

/-- R74: the encoding, the jump taken and not taken, and the frame of JMP_IF_ZERO, for every target, register and state. -/
def Obligations.JmpIfZeroJumpsExactlyWhenTheRegisterIsZero : Prop :=
  ∀ (target : PAddr) (test : RegAddr) (s : State),
    encode (.jmpIfZero target test) = 0b100#3 ++ target ++ test ∧
    encode (.jmpIfZero target test) &&& 0x700#11 = 0x400#11 ∧
    ∃ t, exec (.jmpIfZero target test) s = .next t ∧
      (s.readReg test = 0#4 → t.pc = target) ∧
      (s.readReg test ≠ 0#4 → t.pc.toNat = (s.pc.toNat + 1) % 16) ∧
      (∀ r, t.readReg r = s.readReg r) ∧ KeepsAllButRegistersAndPc s t

/-- The pseudo-instructions of R62 (the spec's own decision D9): NOP changes only pc, CLR writes zero, JMP and HALT jump where
the tested register is zero. -/
def Obligations.PseudoInstructionsDoWhatTheirNamesSay : Prop :=
  ∀ (s : State) (a z : RegAddr) (p : PAddr),
    encode .nop = 0x200#11 ∧
    (∃ t, exec .nop s = .next t ∧ (∀ r, t.readReg r = s.readReg r) ∧ t.pc = s.pc + 1 ∧ KeepsAllButRegistersAndPc s t) ∧
    (∃ t, exec (.clr a) s = .next t ∧ t.readReg a = 0#4 ∧ (∀ r, r ≠ a → t.readReg r = s.readReg r) ∧ t.pc = s.pc + 1 ∧
      KeepsAllButRegistersAndPc s t) ∧
    (∃ t, exec (.jmp p z) s = .next t ∧ t.pc = (if s.readReg z = 0#4 then p else s.pc + 1) ∧
      (∀ r, t.readReg r = s.readReg r) ∧ KeepsAllButRegistersAndPc s t) ∧
    (∃ t, exec (.halt s.pc z) s = .next t ∧ t.pc = (if s.readReg z = 0#4 then s.pc else s.pc + 1) ∧
      (∀ r, t.readReg r = s.readReg r) ∧ KeepsAllButRegistersAndPc s t)

/-- R75: every executed instruction is followed by exactly one increment of pc modulo 16, but for a JMP_IF_ZERO that jumped;
in every mode. -/
def Obligations.OnlyATakenJumpSuppressesTheIncrement : Prop :=
  ∀ (i : Instr) (s : State), ∃ t, exec i s = .next t ∧
    ((∃ target test, i = .jmpIfZero target test ∧ s.readReg test = 0#4 ∧ t.pc = target) ∨
      ((∀ target test, i = .jmpIfZero target test → s.readReg test ≠ 0#4) ∧ t.pc.toNat = (s.pc.toNat + 1) % 16))

/-- R31: what an instruction writes and where pc goes depend on no register but those the table says it reads; it writes no
register but the one the table says; and pc goes where the table says. Two states that agree on the registers read give the
same written value and the same pc. -/
def Obligations.InstructionsReadAndWriteOnlyTheirTableRegisters : Prop :=
  ∀ (i : Instr) (s s' : State), (∀ r ∈ registersRead i, s'.readReg r = s.readReg r) → s'.pc = s.pc →
    ∃ t t', exec i s = .next t ∧ exec i s' = .next t' ∧
      t.pc = pcAfter i s ∧ t'.pc = t.pc ∧
      (∀ r, registerWritten i = some r → t'.readReg r = t.readReg r) ∧
      (∀ r, registerWritten i ≠ some r → t.readReg r = s.readReg r)

/-- No instruction reads or writes the mode, the rate or program memory (from R25, R64, R73 and R108, of which R25 and R73 are
marked as derived): changing all three before an instruction is the same as changing them after it. -/
def Obligations.InstructionsIgnoreModeRateAndProgramMemory : Prop :=
  ∀ (i : Instr) (s : State) (m : Mode) (r : Rate) (p : Memory),
    exec i { s with mode := m, rate := r, pmem := p } =
      mapNext (fun t => { t with mode := m, rate := r, pmem := p }) (exec i s)

/-- Every one of the 2048 words executes in every state (from R56, which the spec marks as derived, and R100). That register
15 may be named is the spec's decision D2 and log entry 1. -/
def Obligations.EveryWordExecutesInEveryState : Prop :=
  ∀ (w : Word) (s : State), ∃ t, exec (decode w) s = .next t

/-- The spec's open parameter R15_IS_GENERAL (D18, U1): with false, an instruction that names register 15 in an operand used
as a register address faults and every other runs as it does by default; with true, the default of log entry 1, all run. -/
def Obligations.ReservedRegister15FaultsExactlyWhereNamed : Prop :=
  ∀ (i : Instr) (s : State),
    (15#4 ∈ i.registerOperands → execUnder Config.r15Reserved i s = .fault .register15Reserved) ∧
    (15#4 ∉ i.registerOperands → execUnder Config.r15Reserved i s = exec i s) ∧
    execUnder Config.standard i s = exec i s

/-- R89: a Tick in Running mode runs the instruction that the word at pc decodes to: the step is `exec` of it, with the event
taken before and the response None after, and `exec` is dispatch followed by the default increment unless it jumped. -/
def Obligations.RunningTickRunsTheFetchedInstruction : Prop :=
  ∀ (s : State) (i : Instr), s.mode = .running → s.nextEvent = .tick →
    decode (s.readWord s.pc) = i → i.wellFormed Config.standard = true →
    step s = mapNext (fun t => t.respond .none) (exec i s.dropEvent) ∧
    exec i s.dropEvent =
      .next (if (dispatch i s.dropEvent).jumped then (dispatch i s.dropEvent).state else (dispatch i s.dropEvent).state.incPc)

/-- R87: an Exec in Interactive mode runs the submitted instruction directly: the step is `exec` of it, with the event taken
before and the response Ok after; program memory is not written, and what it holds makes no difference. -/
def Obligations.InteractiveExecRunsTheSubmittedInstruction : Prop :=
  ∀ (s : State) (f : Fields), s.mode = .interactive → s.nextEvent = .request (.exec f) →
    step s = mapNext (fun t => t.respond .ok) (exec (instrOf f) s.dropEvent) ∧
    exec (instrOf f) s.dropEvent =
      .next (if (dispatch (instrOf f) s.dropEvent).jumped then (dispatch (instrOf f) s.dropEvent).state
        else (dispatch (instrOf f) s.dropEvent).state.incPc) ∧
    ∀ p : Memory, step { s with pmem := p } = mapNext (fun t => { t with pmem := p }) (step s)

/-- Begin in Interactive mode (R84). That registers and program memory keep their values is the spec's decision D6. -/
def Obligations.BeginEntersProgrammingAtAddressZero : Prop :=
  ∀ s : State, s.mode = .interactive → s.nextEvent = .request .beginCapture →
    ∃ t, step s = .next t ∧ t.mode = .programming ∧ t.pc = 0#4 ∧ t.resp = .ok ∧ t.rate = s.rate ∧
      t.inputs = s.inputs.tail ∧ (∀ r, t.readReg r = s.readReg r) ∧ ∀ a, t.readWord a = s.readWord a

/-- R85: Capture in Programming mode writes the encoded word at pc, advances pc modulo 16, answers the address used, changes
no register and no other word, and at address 15 ends capture. -/
def Obligations.CaptureWritesAtPcAndAdvances : Prop :=
  ∀ (s : State) (f : Fields), s.mode = .programming → s.nextEvent = .request (.capture f) →
    ∃ t, step s = .next t ∧ t.readWord s.pc = f.op ++ f.a ++ f.b ∧ (∀ a, a ≠ s.pc → t.readWord a = s.readWord a) ∧
      t.resp = .captured s.pc ∧ t.pc.toNat = (s.pc.toNat + 1) % 16 ∧
      (s.pc = 15#4 → t.mode = .interactive) ∧ (s.pc ≠ 15#4 → t.mode = .programming) ∧
      t.rate = s.rate ∧ t.inputs = s.inputs.tail ∧ ∀ r, t.readReg r = s.readReg r

/-- R92: End in Programming mode returns to Interactive mode at pc 0 and every word keeps its value. -/
def Obligations.EndLeavesProgrammingAndKeepsWords : Prop :=
  ∀ s : State, s.mode = .programming → s.nextEvent = .request .endCapture →
    ∃ t, step s = .next t ∧ t.mode = .interactive ∧ t.pc = 0#4 ∧ t.resp = .ok ∧ t.rate = s.rate ∧
      t.inputs = s.inputs.tail ∧ (∀ r, t.readReg r = s.readReg r) ∧ ∀ a, t.readWord a = s.readWord a

/-- Run in Interactive mode (R88). That registers and program memory keep their values is the spec's decision D6, and that the
step itself executes nothing is D22. -/
def Obligations.RunEntersRunningAtAddressZero : Prop :=
  ∀ (s : State) (r : Rate), s.mode = .interactive → s.nextEvent = .request (.run r) →
    ∃ t, step s = .next t ∧ t.mode = .running ∧ t.pc = 0#4 ∧ t.rate = r ∧ t.resp = .ok ∧
      t.inputs = s.inputs.tail ∧ (∀ q, t.readReg q = s.readReg q) ∧ ∀ a, t.readWord a = s.readWord a

/-- Stop in Running mode (R91), which is the spec's decision D4: the mode and nothing else. -/
def Obligations.StopReturnsToInteractiveOnly : Prop :=
  ∀ s : State, s.mode = .running → s.nextEvent = .request .stop →
    ∃ t, step s = .next t ∧ t.mode = .interactive ∧ t.resp = .ok ∧ t.pc = s.pc ∧ t.rate = s.rate ∧
      t.inputs = s.inputs.tail ∧ (∀ r, t.readReg r = s.readReg r) ∧ ∀ a, t.readWord a = s.readWord a

/-- A Tick outside Running mode (R90), which is the spec's decision D16: nothing changes and the response is None. -/
def Obligations.TickOutsideRunningChangesNothing : Prop :=
  ∀ s : State, s.mode ≠ .running → s.nextEvent = .tick →
    ∃ t, step s = .next t ∧ SameCore s t ∧ t.resp = .none ∧ t.inputs = s.inputs.tail

/-- Reset in any mode (R93, R112, R113). Zero registers, pc and words are the source's; the mode, the rate and that every mode
accepts Reset are the spec's decisions D3 and D7; that x[15] exists is D2; that the events to come stay is log entry 8. -/
def Obligations.ResetZeroesTheMachineFromEveryState : Prop :=
  ∀ s : State, s.nextEvent = .request .reset →
    ∃ t, step s = .next t ∧ (∀ r, t.readReg r = 0#4) ∧ (∀ a, t.readWord a = 0#11) ∧ t.pc = 0#4 ∧
      t.mode = .interactive ∧ t.rate.val = 5 ∧ t.resp = .ok ∧ t.inputs = s.inputs.tail ∧ SameCore State.reset t

/-- Reset twice in a row gives the state of reset once, and the state before makes no difference (R115, the second part of
which the spec marks as derived). -/
def Obligations.ResetIsIdempotentAndForgetsTheState : Prop :=
  ∀ (s u : State) (rest : List Event),
    s.inputs = .request .reset :: .request .reset :: rest → u.inputs = .request .reset :: rest →
    ∃ t, Host.Core.run core 2 s = .next t ∧ step u = .next t

/-- R83, R102, R103: OutOfSequence is answered for exactly the requests the mode does not accept, and then nothing of the
machine's state changes, pc and mode included. -/
def Obligations.RefusedRequestsReportAndChangeNothing : Prop :=
  ∀ (s : State) (q : Request), s.nextEvent = .request q →
    ∃ t, step s = .next t ∧ t.inputs = s.inputs.tail ∧
      (t.resp = .outOfSequence ↔ accepts q s.mode = false) ∧
      (accepts q s.mode = false → SameCore s t)

/-- The acceptance table of R82. Its cells for Capture and End are the source's; for Reset it is the spec's decision D3, for
Stop D4, for Exec, Begin and Run outside Interactive mode D5. -/
def Obligations.EachModeAcceptsItsTableRequests : Prop :=
  ∀ (q : Request) (m : Mode),
    accepts q m = true ↔
      q = .reset ∨
      (m = .interactive ∧ ((∃ f, q = .exec f) ∨ q = .beginCapture ∨ ∃ r, q = .run r)) ∨
      (m = .programming ∧ ((∃ f, q = .capture f) ∨ q = .endCapture)) ∨
      (m = .running ∧ q = .stop)

/-- The response of every step (R97, with the spec's encoding D19): None for a Tick, OutOfSequence for a refused request, the
address written for an accepted Capture, Ok for any other accepted request. -/
def Obligations.EveryStepAnswersItsTableResponse : Prop :=
  ∀ s : State, ∃ t, step s = .next t ∧
    (s.nextEvent = .tick → t.resp = .none) ∧
    ∀ q, s.nextEvent = .request q →
      (accepts q s.mode = false → t.resp = .outOfSequence) ∧
      (accepts q s.mode = true → (∃ f, q = .capture f) → t.resp = .captured s.pc) ∧
      (accepts q s.mode = true → (∀ f, q ≠ .capture f) → t.resp = .ok)

/-- The mode changes by the transitions of R98 and no others (which the spec marks as derived; Stop is D4, Reset in every mode
D3): none leads between Programming and Running, and no instruction changes the mode. -/
def Obligations.ModeChangesOnlyByTableTransitions : Prop :=
  ∀ s t : State, step s = .next t → t.mode ≠ s.mode →
    (s.mode = .interactive ∧ t.mode = .programming ∧ s.nextEvent = .request .beginCapture) ∨
    (s.mode = .interactive ∧ t.mode = .running ∧ ∃ r, s.nextEvent = .request (.run r)) ∨
    (s.mode = .programming ∧ t.mode = .interactive ∧ s.pc = 15#4 ∧ ∃ f, s.nextEvent = .request (.capture f)) ∨
    (s.mode = .programming ∧ t.mode = .interactive ∧ s.nextEvent = .request .endCapture) ∨
    (s.mode = .running ∧ t.mode = .interactive ∧ s.nextEvent = .request .stop) ∨
    (t.mode = .interactive ∧ s.nextEvent = .request .reset)

/-- R22: the complete list of writers of pc, with what each writes: an executed instruction (a taken jump or the default
increment), Capture's increment, zero on Begin, End, the end of capture and Run, and reset. -/
def Obligations.PcIsWrittenOnlyByItsListedWriters : Prop :=
  ∀ s t : State, step s = .next t → t.pc ≠ s.pc →
    (∃ i, Runs s i ∧ t.pc = pcAfter i s) ∨
    (s.mode = .programming ∧ t.pc = s.pc + 1 ∧ ∃ f, s.nextEvent = .request (.capture f)) ∨
    (t.pc = 0#4 ∧
      ((s.mode = .interactive ∧ s.nextEvent = .request .beginCapture) ∨
        (s.mode = .programming ∧ s.nextEvent = .request .endCapture) ∨
        (s.mode = .programming ∧ s.pc = 15#4 ∧ ∃ f, s.nextEvent = .request (.capture f)) ∨
        (s.mode = .interactive ∧ ∃ r, s.nextEvent = .request (.run r)) ∨
        s.nextEvent = .request .reset))

/-- R39: apart from reset, the only writer of program memory is Capture, which writes the encoded word at the address in pc.
-/
def Obligations.ProgramMemoryIsWrittenOnlyByCaptureAndReset : Prop :=
  ∀ (s t : State) (a : PAddr), step s = .next t → t.readWord a ≠ s.readWord a →
    (s.nextEvent = .request .reset ∧ t.readWord a = 0#11) ∨
    (s.mode = .programming ∧ a = s.pc ∧ ∃ f, s.nextEvent = .request (.capture f) ∧ t.readWord a = encodeFields f)

/-- A register changes only by reset, or as the destination of an instruction the step runs (from R31, R73 and R82). -/
def Obligations.RegistersAreWrittenOnlyByInstructionsAndReset : Prop :=
  ∀ (s t : State) (r : RegAddr), step s = .next t → t.readReg r ≠ s.readReg r →
    (s.nextEvent = .request .reset ∧ t.readReg r = 0#4) ∨ ∃ i, Runs s i ∧ registerWritten i = some r

/-- R30: the snapshot shows exactly the registers, the program words, the program counter and the mode; so not the rate. -/
def Obligations.SnapshotShowsExactlyTheVisibleState : Prop :=
  ∀ s t : State, s.snapshot = t.snapshot ↔
    (∀ r, s.readReg r = t.readReg r) ∧ (∀ a, s.readWord a = t.readWord a) ∧ s.pc = t.pc ∧ s.mode = t.mode

/-- Every request and every Tick has a successor state, in every mode and every state: no step faults and none is refused
(spec/93_implementation_defined.md section 1, from R96 and R100; that register 15 may be named is D2 and log entry 1). -/
def Obligations.EveryStepHasASuccessor : Prop := ∀ s : State, Safe s

/-- Every step from every state keeps program memory in its canonical form, so that it never lists a word outside the sixteen
(from R34). The canonical form is the model's representation, log entry 4. -/
def Obligations.EveryStepKeepsProgramMemoryCanonical : Prop :=
  ∀ s t : State, Inv s → step s = .next t → Inv t

/-- The reset state has the invariant, and every word of it is zero (R113). The canonical form is the model's, log entry 4. -/
def Obligations.ResetStateHasTheInvariant : Prop :=
  Inv State.reset ∧ ∀ a, State.reset.readWord a = 0#11

/-- Two memories in canonical form with the same sixteen words are the same data. The form is the model's, log entry 4. -/
def Obligations.CanonicalMemoriesAreEqualWhenTheirWordsAre : Prop :=
  ∀ m n : Memory, Memory.wf m = true → Memory.wf n = true →
    (∀ a : PAddr, Memory.read m a.toNat = Memory.read n a.toNat) → m = n

/-- Running never ends of itself (R94, U3): after any number of Ticks the core is still Running, with the same program and
rate. That an empty list of events means Ticks is log entry 2. -/
def Obligations.RunningContinuesUnderTicks : Prop :=
  ∀ (n : Nat) (s : State), s.mode = .running → s.inputs = [] →
    ∃ t, Host.Core.run core n s = .next t ∧ t.mode = .running ∧ t.inputs = [] ∧ t.rate = s.rate ∧
      ∀ a, t.readWord a = s.readWord a

/-- A halted state (R99, the spec's decision D10) is a fixed point of Ticks, however many come. -/
def Obligations.HaltedStateStaysUnderTicks : Prop :=
  ∀ (n : Nat) (s : State), halted s = true → s.inputs = List.replicate n .tick →
    ∃ t, Host.Core.run core n s = .next t ∧ SameCore s t ∧ halted t = true

/-- A Running program without a jump executes its words in address order and wraps (R44, which the spec marks as derived). -/
def Obligations.ProgramWithoutJumpsWrapsThroughMemory : Prop :=
  ∀ (n : Nat) (s : State), s.mode = .running → s.inputs = List.replicate n .tick →
    (∀ a target test, decode (s.readWord a) ≠ .jmpIfZero target test) →
    ∃ t, Host.Core.run core n s = .next t ∧ t.pc.toNat = (s.pc.toNat + n) % 16 ∧ t.mode = .running

/-- No visible value and no response of any run depends on the rate (R121, decision D7): two runs over the same events from
states that differ only in the rate show the same snapshot and response after every number of steps. -/
def Obligations.RateAffectsNoSnapshotAndNoResponse : Prop :=
  ∀ (n : Nat) (s : State) (r : Rate),
    ∃ t t', Host.Core.run core n s = .next t ∧ Host.Core.run core n (s.setRate r) = .next t' ∧
      t'.snapshot = t.snapshot ∧ t'.resp = t.resp ∧ t'.inputs = t.inputs

/-- Loading from Interactive mode (R84 to R86, R92; that Begin clears nothing is D6): Begin, at most sixteen Captures and,
where they are fewer, End leave each captured word at its place in order and every other word, every register and the rate as
they were, in Interactive mode at pc 0, whatever the words and the state. -/
def Obligations.LoaderPlacesCapturedWordsInOrder : Prop :=
  ∀ (s : State) (words : List Fields) (rest : List Event), s.mode = .interactive → words.length ≤ 16 →
    s.inputs = loadEvents words ++ rest →
    ∃ t, Host.Core.run core (loadEvents words).length s = .next t ∧ t.mode = .interactive ∧ t.pc = 0#4 ∧ t.inputs = rest ∧
      t.rate = s.rate ∧ (∀ r, t.readReg r = s.readReg r) ∧
      (∀ (a : PAddr) (f : Fields), words[a.toNat]? = some f → t.readWord a = encodeFields f) ∧
      ∀ a : PAddr, words.length ≤ a.toNat → t.readWord a = s.readWord a

/-- The boot sequence from any state (R117 and R118, which the spec marks as derived): Reset, loading one to sixteen words and
Run(r) give Running mode at pc 0 with rate r, all registers zero, each captured word at its place and zero in every other word.
It rests on the spec's decisions D2 (x[15] exists and is zero), D3 (Reset in every mode), D6 (Begin and Run clear nothing) and
D22 (the Run step executes nothing), and on log entry 8 (reset keeps the events to come). -/
def Obligations.BootSequenceStartsTheLoadedWords : Prop :=
  ∀ (s : State) (words : List Fields) (r : Rate) (rest : List Event), loadable words = true →
    s.inputs = bootEvents words r ++ rest →
    ∃ t, Host.Core.run core (bootEvents words r).length s = .next t ∧ t.mode = .running ∧ t.pc = 0#4 ∧ t.rate = r ∧
      t.resp = .ok ∧ t.inputs = rest ∧ (∀ q, t.readReg q = 0#4) ∧
      (∀ (a : PAddr) (f : Fields), words[a.toNat]? = some f → t.readWord a = encodeFields f) ∧
      ∀ a : PAddr, words.length ≤ a.toNat → t.readWord a = 0#11

/-- A register written by one instruction is seen by the very next (R119 and R120, the latter marked as derived): a
JMP_IF_ZERO right after any instruction that writes the register it tests, fetched in Running mode or submitted in
Interactive mode, jumps exactly where the value just written is zero, which after IMMD is its literal. -/
def Obligations.JumpSeesTheRegisterWrittenJustBefore : Prop :=
  ∀ (s u : State) (i : Instr) (dst : RegAddr) (target : PAddr),
    Runs s i → registerWritten i = some dst → step s = .next u → Runs u (.jmpIfZero target dst) →
    ∃ w t, exec i s = .next w ∧ Host.Core.run core 2 s = .next t ∧
      u.readReg dst = w.readReg dst ∧ t.readReg dst = w.readReg dst ∧
      (w.readReg dst = 0#4 → t.pc = target) ∧ (w.readReg dst ≠ 0#4 → t.pc = s.pc + 2) ∧
      ∀ value, i = .immd dst value → w.readReg dst = value

/-- R20: the increment is modulo 16, gives 0 from 15, and changes nothing else. -/
def Obligations.IncrementWrapsModuloSixteen : Prop :=
  ∀ s : State, s.incPc.pc.toNat = (s.pc.toNat + 1) % 16 ∧ (s.pc = 15#4 → s.incPc.pc = 0#4) ∧
    (∀ r, s.incPc.readReg r = s.readReg r) ∧ KeepsAllButRegistersAndPc s s.incPc

/-- A word placed for the next fetch is the instruction the next step runs, and the events to come are as before (the model's
choice, log entry 5). -/
def Obligations.PlacedFetchWordRunsNext : Prop :=
  ∀ (s : State) (w : Word) (i : Instr), decodeTableWord 11 w.toNat = some i →
    ∃ u, u.inputs = s.inputs ∧ u.x = s.x ∧ u.pc = s.pc ∧ u.rate = s.rate ∧ u.mode = .running ∧
      step (s.withFetchWord 11 w.toNat) = mapNext (fun t => t.respond .none) (exec i u)
end

