-- ==== Sys2Proof/Laws/State.lean ====
section
/-! SUPPORT. What each update of the state does to each field: one lemma per field per update, true by `rfl`, and what the
read of a register or of a word sees of an update. -/

namespace Sys2Proof.Machine

@[simp] theorem State.writeReg_x (s : State) (r : RegAddr) (v : Nibble) : (s.writeReg r v).x = s.x.set r.toNat v r.isLt := rfl
@[simp] theorem State.writeReg_pc (s : State) (r : RegAddr) (v : Nibble) : (s.writeReg r v).pc = s.pc := rfl
@[simp] theorem State.writeReg_pmem (s : State) (r : RegAddr) (v : Nibble) : (s.writeReg r v).pmem = s.pmem := rfl
@[simp] theorem State.writeReg_mode (s : State) (r : RegAddr) (v : Nibble) : (s.writeReg r v).mode = s.mode := rfl
@[simp] theorem State.writeReg_rate (s : State) (r : RegAddr) (v : Nibble) : (s.writeReg r v).rate = s.rate := rfl
@[simp] theorem State.writeReg_inputs (s : State) (r : RegAddr) (v : Nibble) : (s.writeReg r v).inputs = s.inputs := rfl
@[simp] theorem State.writeReg_resp (s : State) (r : RegAddr) (v : Nibble) : (s.writeReg r v).resp = s.resp := rfl
@[simp] theorem State.writeReg_readWord (s : State) (r : RegAddr) (v : Nibble) (p : PAddr) : (s.writeReg r v).readWord p = s.readWord p := rfl

@[simp] theorem State.setPc_x (s : State) (v : PAddr) : (s.setPc v).x = s.x := rfl
@[simp] theorem State.setPc_pc (s : State) (v : PAddr) : (s.setPc v).pc = v := rfl
@[simp] theorem State.setPc_pmem (s : State) (v : PAddr) : (s.setPc v).pmem = s.pmem := rfl
@[simp] theorem State.setPc_mode (s : State) (v : PAddr) : (s.setPc v).mode = s.mode := rfl
@[simp] theorem State.setPc_rate (s : State) (v : PAddr) : (s.setPc v).rate = s.rate := rfl
@[simp] theorem State.setPc_inputs (s : State) (v : PAddr) : (s.setPc v).inputs = s.inputs := rfl
@[simp] theorem State.setPc_resp (s : State) (v : PAddr) : (s.setPc v).resp = s.resp := rfl
@[simp] theorem State.setPc_readReg (s : State) (v : PAddr) (q : RegAddr) : (s.setPc v).readReg q = s.readReg q := rfl
@[simp] theorem State.setPc_readWord (s : State) (v : PAddr) (p : PAddr) : (s.setPc v).readWord p = s.readWord p := rfl

@[simp] theorem State.incPc_x (s : State) : (s.incPc).x = s.x := rfl
@[simp] theorem State.incPc_pc (s : State) : (s.incPc).pc = s.pc + 1 := rfl
@[simp] theorem State.incPc_pmem (s : State) : (s.incPc).pmem = s.pmem := rfl
@[simp] theorem State.incPc_mode (s : State) : (s.incPc).mode = s.mode := rfl
@[simp] theorem State.incPc_rate (s : State) : (s.incPc).rate = s.rate := rfl
@[simp] theorem State.incPc_inputs (s : State) : (s.incPc).inputs = s.inputs := rfl
@[simp] theorem State.incPc_resp (s : State) : (s.incPc).resp = s.resp := rfl
@[simp] theorem State.incPc_readReg (s : State) (q : RegAddr) : (s.incPc).readReg q = s.readReg q := rfl
@[simp] theorem State.incPc_readWord (s : State) (p : PAddr) : (s.incPc).readWord p = s.readWord p := rfl

@[simp] theorem State.setMode_x (s : State) (m : Mode) : (s.setMode m).x = s.x := rfl
@[simp] theorem State.setMode_pc (s : State) (m : Mode) : (s.setMode m).pc = s.pc := rfl
@[simp] theorem State.setMode_pmem (s : State) (m : Mode) : (s.setMode m).pmem = s.pmem := rfl
@[simp] theorem State.setMode_mode (s : State) (m : Mode) : (s.setMode m).mode = m := rfl
@[simp] theorem State.setMode_rate (s : State) (m : Mode) : (s.setMode m).rate = s.rate := rfl
@[simp] theorem State.setMode_inputs (s : State) (m : Mode) : (s.setMode m).inputs = s.inputs := rfl
@[simp] theorem State.setMode_resp (s : State) (m : Mode) : (s.setMode m).resp = s.resp := rfl
@[simp] theorem State.setMode_readReg (s : State) (m : Mode) (q : RegAddr) : (s.setMode m).readReg q = s.readReg q := rfl
@[simp] theorem State.setMode_readWord (s : State) (m : Mode) (p : PAddr) : (s.setMode m).readWord p = s.readWord p := rfl

@[simp] theorem State.setRate_x (s : State) (r : Rate) : (s.setRate r).x = s.x := rfl
@[simp] theorem State.setRate_pc (s : State) (r : Rate) : (s.setRate r).pc = s.pc := rfl
@[simp] theorem State.setRate_pmem (s : State) (r : Rate) : (s.setRate r).pmem = s.pmem := rfl
@[simp] theorem State.setRate_mode (s : State) (r : Rate) : (s.setRate r).mode = s.mode := rfl
@[simp] theorem State.setRate_rate (s : State) (r : Rate) : (s.setRate r).rate = r := rfl
@[simp] theorem State.setRate_inputs (s : State) (r : Rate) : (s.setRate r).inputs = s.inputs := rfl
@[simp] theorem State.setRate_resp (s : State) (r : Rate) : (s.setRate r).resp = s.resp := rfl
@[simp] theorem State.setRate_readReg (s : State) (r : Rate) (q : RegAddr) : (s.setRate r).readReg q = s.readReg q := rfl
@[simp] theorem State.setRate_readWord (s : State) (r : Rate) (p : PAddr) : (s.setRate r).readWord p = s.readWord p := rfl

@[simp] theorem State.respond_x (s : State) (v : Response) : (s.respond v).x = s.x := rfl
@[simp] theorem State.respond_pc (s : State) (v : Response) : (s.respond v).pc = s.pc := rfl
@[simp] theorem State.respond_pmem (s : State) (v : Response) : (s.respond v).pmem = s.pmem := rfl
@[simp] theorem State.respond_mode (s : State) (v : Response) : (s.respond v).mode = s.mode := rfl
@[simp] theorem State.respond_rate (s : State) (v : Response) : (s.respond v).rate = s.rate := rfl
@[simp] theorem State.respond_inputs (s : State) (v : Response) : (s.respond v).inputs = s.inputs := rfl
@[simp] theorem State.respond_resp (s : State) (v : Response) : (s.respond v).resp = v := rfl
@[simp] theorem State.respond_readReg (s : State) (v : Response) (q : RegAddr) : (s.respond v).readReg q = s.readReg q := rfl
@[simp] theorem State.respond_readWord (s : State) (v : Response) (p : PAddr) : (s.respond v).readWord p = s.readWord p := rfl

@[simp] theorem State.writeWord_x (s : State) (a : PAddr) (w : Word) : (s.writeWord a w).x = s.x := rfl
@[simp] theorem State.writeWord_pc (s : State) (a : PAddr) (w : Word) : (s.writeWord a w).pc = s.pc := rfl
@[simp] theorem State.writeWord_pmem (s : State) (a : PAddr) (w : Word) : (s.writeWord a w).pmem = Memory.write s.pmem a.toNat w := rfl
@[simp] theorem State.writeWord_mode (s : State) (a : PAddr) (w : Word) : (s.writeWord a w).mode = s.mode := rfl
@[simp] theorem State.writeWord_rate (s : State) (a : PAddr) (w : Word) : (s.writeWord a w).rate = s.rate := rfl
@[simp] theorem State.writeWord_inputs (s : State) (a : PAddr) (w : Word) : (s.writeWord a w).inputs = s.inputs := rfl
@[simp] theorem State.writeWord_resp (s : State) (a : PAddr) (w : Word) : (s.writeWord a w).resp = s.resp := rfl
@[simp] theorem State.writeWord_readReg (s : State) (a : PAddr) (w : Word) (q : RegAddr) : (s.writeWord a w).readReg q = s.readReg q := rfl

@[simp] theorem State.dropEvent_x (s : State) : (s.dropEvent).x = s.x := rfl
@[simp] theorem State.dropEvent_pc (s : State) : (s.dropEvent).pc = s.pc := rfl
@[simp] theorem State.dropEvent_pmem (s : State) : (s.dropEvent).pmem = s.pmem := rfl
@[simp] theorem State.dropEvent_mode (s : State) : (s.dropEvent).mode = s.mode := rfl
@[simp] theorem State.dropEvent_rate (s : State) : (s.dropEvent).rate = s.rate := rfl
@[simp] theorem State.dropEvent_inputs (s : State) : (s.dropEvent).inputs = s.inputs.tail := rfl
@[simp] theorem State.dropEvent_resp (s : State) : (s.dropEvent).resp = s.resp := rfl
@[simp] theorem State.dropEvent_readReg (s : State) (q : RegAddr) : (s.dropEvent).readReg q = s.readReg q := rfl
@[simp] theorem State.dropEvent_readWord (s : State) (p : PAddr) : (s.dropEvent).readWord p = s.readWord p := rfl

@[simp] theorem State.reset_readReg (r : RegAddr) : State.reset.readReg r = 0#4 := by
  simp [State.readReg, State.reset]

@[simp] theorem State.reset_readWord (p : PAddr) : State.reset.readWord p = 0#11 := rfl

/-- What a read sees of a register write: the value at its register, the old value at every other (R17, R18). -/
theorem State.readReg_writeReg (s : State) (r q : RegAddr) (v : Nibble) :
    (s.writeReg r v).readReg q = if q = r then v else s.readReg q := by
  by_cases h : q = r
  · subst h; simp [State.readReg, State.writeReg]
  · have hne : r.toNat ≠ q.toNat := fun e => h (BitVec.eq_of_toNat_eq e).symm
    simp [State.readReg, State.writeReg, hne, h]

@[simp] theorem State.readReg_writeReg_same (s : State) (r : RegAddr) (v : Nibble) : (s.writeReg r v).readReg r = v := by
  simp [State.readReg_writeReg]

theorem State.readReg_writeReg_other (s : State) {r q : RegAddr} (v : Nibble) (h : q ≠ r) :
    (s.writeReg r v).readReg q = s.readReg q := by
  simp [State.readReg_writeReg, h]

/-- Two states with the same registers by reading have the same register file. -/
theorem State.x_ext {s t : State} (h : ∀ r, s.readReg r = t.readReg r) : s.x = t.x := by
  apply Vector.ext
  intro i hi
  have e : (BitVec.ofNat 4 i).toNat = i := by simp; omega
  simpa [State.readReg, e] using h (BitVec.ofNat 4 i)

end Sys2Proof.Machine
end

