-- ==== Sys2Proof/Laws/Memory.lean ====
section
/-! SUPPORT. The laws of program memory: what a read sees of a write, that every operation keeps the canonical form, and that a
canonical memory is determined by its words. -/

namespace Sys2Proof.Machine

theorem Memory.read_erase (m : Memory) (a b : Nat) :
    Memory.read (Memory.erase m a) b = if b = a then 0#11 else Memory.read m b := by
  induction m with
  | nil => simp [Memory.erase, Memory.read]
  | cons c rest ih =>
    obtain ⟨k, v⟩ := c
    simp only [Memory.erase] at ih ⊢
    by_cases hk : k = a
    · subst hk
      by_cases hb : b = k
      · subst hb; simpa using ih
      · simp [Memory.read, hb, ih]
    · by_cases hb : b = k
      · subst hb; simp [Memory.read, hk]
      · simp [Memory.read, hk, hb, ih]

theorem Memory.read_insert (m : Memory) (a b : Nat) (w : Word) (h : Memory.read m a = 0#11) (hw : ∀ c ∈ m, c.1 ≠ a) :
    Memory.read (Memory.insert m a w) b = if b = a then w else Memory.read m b := by
  induction m with
  | nil => rfl
  | cons c rest ih =>
    obtain ⟨k, v⟩ := c
    have hk : k ≠ a := hw (k, v) (by simp)
    have hr : Memory.read rest a = 0#11 := by simpa [Memory.read, hk.symm] using h
    have := ih hr fun c hc => hw c (by simp [hc])
    unfold Memory.insert
    split
    · rfl
    · by_cases hb : b = k
      · subst hb; simp [Memory.read, hk]
      · simp [Memory.read, hb, this]

/-- What a read sees of a write, whatever the memory: the word at its address, the old word at every other (R36, R41). -/
theorem Memory.read_write (m : Memory) (a b : Nat) (w : Word) :
    Memory.read (Memory.write m a w) b = if b = a then w else Memory.read m b := by
  unfold Memory.write
  split
  · next h => subst h; exact Memory.read_erase m a b
  · rw [Memory.read_insert _ _ _ _ (by simp [Memory.read_erase]) (by simp [Memory.erase]), Memory.read_erase]
    by_cases hb : b = a <;> simp [hb]

/-- What the read of a word sees of the loader's write (R36, R85). -/
theorem State.readWord_writeWord (s : State) (a p : PAddr) (w : Word) :
    (s.writeWord a w).readWord p = if p = a then w else s.readWord p := by
  simp [State.readWord, State.writeWord, Memory.read_write, ← BitVec.toNat_inj]

/-- The canonical form from `hi` on holds from any lower address on. -/
theorem Memory.wfFrom_mono {m : Memory} {lo hi : Nat} (hle : lo ≤ hi) (h : Memory.wfFrom hi m = true) :
    Memory.wfFrom lo m = true := by
  cases m with
  | nil => rfl
  | cons c rest =>
    obtain ⟨k, v⟩ := c
    simp only [Memory.wfFrom, Bool.and_eq_true, decide_eq_true_eq] at h ⊢
    exact ⟨⟨⟨by omega, h.1.1.2⟩, h.1.2⟩, h.2⟩

theorem Memory.wfFrom_erase {m : Memory} {lo : Nat} (a : Nat) (h : Memory.wfFrom lo m = true) :
    Memory.wfFrom lo (Memory.erase m a) = true := by
  induction m generalizing lo with
  | nil => rfl
  | cons c rest ih =>
    obtain ⟨k, v⟩ := c
    simp only [Memory.wfFrom, Bool.and_eq_true, decide_eq_true_eq] at h
    have hrest := ih h.2
    simp only [Memory.erase] at hrest ⊢
    by_cases hk : k = a
    · simpa [hk] using Memory.wfFrom_mono (by omega) hrest
    · simp [hk, Memory.wfFrom, h.1.1.1, h.1.1.2, h.1.2, hrest]

theorem Memory.wfFrom_insert {m : Memory} {lo a : Nat} {w : Word} (hlo : lo ≤ a) (ha : a < 16) (hw : w ≠ 0#11)
    (hm : ∀ c ∈ m, c.1 ≠ a) (h : Memory.wfFrom lo m = true) : Memory.wfFrom lo (Memory.insert m a w) = true := by
  induction m generalizing lo with
  | nil => simp [Memory.insert, Memory.wfFrom, hlo, ha, hw]
  | cons c rest ih =>
    obtain ⟨k, v⟩ := c
    have hk : k ≠ a := hm (k, v) (by simp)
    simp only [Memory.wfFrom, Bool.and_eq_true, decide_eq_true_eq] at h
    unfold Memory.insert
    split
    · next hlt => simp [Memory.wfFrom, hlo, ha, hw, h.1.1.2, h.1.2, h.2, Nat.succ_le_of_lt hlt]
    · simp only [Memory.wfFrom, Bool.and_eq_true, decide_eq_true_eq]
      exact ⟨h.1, ih (by omega) (fun c hc => hm c (by simp [hc])) h.2⟩

/-- A write at one of the sixteen addresses keeps the canonical form. -/
theorem Memory.wf_write {m : Memory} {a : Nat} (w : Word) (ha : a < 16) (h : Memory.wf m = true) :
    Memory.wf (Memory.write m a w) = true := by
  have he := Memory.wfFrom_erase a h
  unfold Memory.write
  split
  · exact he
  · next hw => exact Memory.wfFrom_insert (by omega) ha hw (by simp [Memory.erase]) he

/-- The loader's write keeps the canonical form. -/
theorem State.writeWord_wf {s : State} (a : PAddr) (w : Word) (h : Memory.wf s.pmem = true) :
    Memory.wf (s.writeWord a w).pmem = true := Memory.wf_write w a.isLt h

/-- Memory with nothing listed, as reset leaves it, is canonical. -/
theorem Memory.wf_empty : Memory.wf [] = true := rfl

/-- Below the first address it may list, a canonical memory reads as zero. -/
theorem Memory.read_below {m : Memory} {lo a : Nat} (h : Memory.wfFrom lo m = true) (ha : a < lo) : Memory.read m a = 0#11 := by
  induction m generalizing lo with
  | nil => rfl
  | cons c rest ih =>
    obtain ⟨k, v⟩ := c
    simp only [Memory.wfFrom, Bool.and_eq_true, decide_eq_true_eq] at h
    have hk : a ≠ k := by omega
    simp [Memory.read, hk, ih h.2 (by omega)]

/-- Outside the sixteen words a canonical memory lists nothing. -/
theorem Memory.read_above {m : Memory} {lo a : Nat} (h : Memory.wfFrom lo m = true) (ha : 16 ≤ a) : Memory.read m a = 0#11 := by
  induction m generalizing lo with
  | nil => rfl
  | cons c rest ih =>
    obtain ⟨k, v⟩ := c
    simp only [Memory.wfFrom, Bool.and_eq_true, decide_eq_true_eq] at h
    have hk : a ≠ k := by omega
    simp [Memory.read, hk, ih h.2]

end Sys2Proof.Machine
end

