-- ==== Sys2Proof/Laws/Ops.lean ====
section
/-! SUPPORT. One lemma per shared operation that says everything it can do, for proofs to cite instead of unfolding it. -/

namespace Sys2Proof.Machine

/-- In the configuration the core runs in every register may be named. -/
@[simp] theorem Config.standard_admits (r : RegAddr) : Config.standard.admits r = true := rfl

@[simp] theorem Config.standard_admits_all (regs : List RegAddr) : regs.all Config.standard.admits = true := by
  simp

/-- A cycle in the configuration the core runs in always goes on, with the effect and the advance (R75, R96, R100). -/
theorem runCycle_standard (regs : List RegAddr) (effect : State → Dispatched) (s : State) :
    runCycle Config.standard regs effect s = .next (effect s).advance := by
  simp [runCycle]

/-- Everything a cycle can do under any configuration (D18). -/
theorem runCycle_cases (cfg : Config) (regs : List RegAddr) (effect : State → Dispatched) (s : State) :
    (regs.all cfg.admits = true ∧ runCycle cfg regs effect s = .next (effect s).advance) ∨
      (regs.all cfg.admits = false ∧ runCycle cfg regs effect s = .fault .register15Reserved) := by
  cases h : regs.all cfg.admits <;> simp [runCycle, h]

@[simp] theorem Dispatched.advance_stay (s : State) : (Dispatched.mk s false).advance = s.incPc := rfl

@[simp] theorem Dispatched.advance_jump (s : State) : (Dispatched.mk s true).advance = s := rfl

@[simp] theorem mapNext_next (f : State → State) (t : State) : mapNext f (.next t) = .next (f t) := rfl

/-- If `mapNext` goes on, so did what it maps. -/
theorem mapNext_eq_next {f : State → State} {r : Result} {t : State} (h : mapNext f r = .next t) :
    ∃ u, r = .next u ∧ f u = t := by
  cases r with
  | next u => exact ⟨u, rfl, by simpa [mapNext] using h⟩
  | fault _ => simp [mapNext] at h
  | refused _ => simp [mapNext] at h

/-- The next event: the oldest to come, or a Tick. -/
theorem State.nextEvent_cases (s : State) :
    (s.inputs = [] ∧ s.nextEvent = .tick ∧ s.dropEvent = s) ∨
      (∃ e rest, s.inputs = e :: rest ∧ s.nextEvent = e ∧ s.dropEvent.inputs = rest) := by
  cases h : s.inputs with
  | nil =>
    refine .inl ⟨rfl, by simp [State.nextEvent, h], ?_⟩
    cases s; simp_all [State.dropEvent]
  | cons e rest => exact .inr ⟨e, rest, rfl, by simp [State.nextEvent, h], by simp [h]⟩

/-- Everything the event of one step can be and do: a refused request, an accepted one, a Tick (R82, R83, R96). -/
theorem stepEvent_cases (e : Event) (s : State) :
    (∃ q, e = .request q ∧ accepts q s.mode = false ∧ stepEvent e s = .next (reportOutOfSequence s)) ∨
      (∃ q, e = .request q ∧ accepts q s.mode = true ∧ stepEvent e s = perform q s) ∨
      (e = .tick ∧ stepEvent e s = performTick s) := by
  cases e with
  | tick => exact .inr (.inr ⟨rfl, rfl⟩)
  | request q =>
    cases h : accepts q s.mode with
    | false => exact .inl ⟨q, rfl, h, by simp [stepEvent, h]⟩
    | true => exact .inr (.inl ⟨q, rfl, h, by simp [stepEvent, h]⟩)

/-- A Capture at an address below 15 (R85). -/
theorem performCapture_below {s : State} (f : Fields) (h : s.pc ≠ 15#4) :
    performCapture f s = ((s.writeWord s.pc (encodeFields f)).incPc).respond (.captured s.pc) := by
  simp [performCapture, h]

/-- The Capture of address 15 (R86). -/
theorem performCapture_last {s : State} (f : Fields) (h : s.pc = 15#4) :
    performCapture f s = leaveCapture (((s.writeWord s.pc (encodeFields f)).incPc).respond (.captured s.pc)) := by
  simp [performCapture, h]

/-- The dispatch of JMP_IF_ZERO, taken or not (R74). -/
theorem dispatchJmpIfZero_cases (target : PAddr) (test : RegAddr) (s : State) :
    (s.readReg test = 0#4 ∧ dispatchJmpIfZero target test s = ⟨s.setPc target, true⟩) ∨
      (s.readReg test ≠ 0#4 ∧ dispatchJmpIfZero target test s = ⟨s, false⟩) := by
  by_cases h : s.readReg test = 0#4
  · exact .inl ⟨h, by simp [dispatchJmpIfZero, State.testsZero, h, literalTarget]⟩
  · exact .inr ⟨h, by simp [dispatchJmpIfZero, State.testsZero, h]⟩

end Sys2Proof.Machine
end

