-- ==== Sys2Proof/Laws/PerInstr.lean ====
section
/-! SUPPORT. A family of statements proved once per constructor of Instr: the fields of an instruction's word are the
instruction's opcode and operands (spec/30_encoding.md R48, R50). -/

namespace Sys2Proof

/-- A bit of an encoded triple, field by field from the least significant (R48). -/
theorem getLsbD_encodeFields (f : Fields) (i : Nat) :
    (encodeFields f).getLsbD i =
      if i < 4 then f.b.getLsbD i else if i < 8 then f.a.getLsbD (i - 4) else f.op.getLsbD (i - 8) := by
  refine (BitVec.getLsbD_append (x := f.op ++ f.a) (y := f.b)).trans ?_
  refine ite_congr rfl (fun _ => rfl) fun h4 => ?_
  refine (BitVec.getLsbD_append (x := f.op) (y := f.a)).trans ?_
  by_cases h8 : i < 8
  · rw [if_pos (by omega), if_pos h8]
  · rw [if_neg (by omega), if_neg h8]; congr 1

/-- Splitting a word made of three fields gives the three fields back (R48, R53). -/
theorem wordFields_encodeFields (f : Fields) : wordFields (encodeFields f) = f := by
  obtain ⟨op, a, b⟩ := f
  simp only [wordFields, Fields.mk.injEq]
  refine ⟨?_, ?_, ?_⟩ <;> ext i hi <;>
    rw [BitVec.getElem_extractLsb', getLsbD_encodeFields, ← BitVec.getLsbD_eq_getElem]
  · rw [if_neg (by omega), if_neg (by omega), Nat.add_sub_cancel_left]
  · rw [if_neg (by omega), if_pos (by omega), Nat.add_sub_cancel_left]
  · rw [if_pos (by omega), Nat.zero_add]

namespace Laws.EncodedFields

/-- The word's three fields are the instruction's own. -/
def Statement (i : Instr) : Prop := wordFields (encode i) = i.fields

theorem add (a b : RegAddr) : Statement (.add a b) := wordFields_encodeFields _
theorem sub (a b : RegAddr) : Statement (.sub a b) := wordFields_encodeFields _
theorem mov (src dst : RegAddr) : Statement (.mov src dst) := wordFields_encodeFields _
theorem immd (dst : RegAddr) (value : Nibble) : Statement (.immd dst value) := wordFields_encodeFields _
theorem jmpIfZero (target : PAddr) (test : RegAddr) : Statement (.jmpIfZero target test) := wordFields_encodeFields _
theorem and (a b : RegAddr) : Statement (.and a b) := wordFields_encodeFields _
theorem or (a b : RegAddr) : Statement (.or a b) := wordFields_encodeFields _
theorem not (src dst : RegAddr) : Statement (.not src dst) := wordFields_encodeFields _

end Laws.EncodedFields

end Sys2Proof
end

