-- ==== Sys2Proof/Laws/Run.lean ====
section
/-! SUPPORT. Runs of several steps, in terms of one step (spec/45_controller_and_loader.md R80), and which instruction a step
runs. -/

namespace Sys2Proof.Machine

/-- A run whose first step goes on is the run of the rest. -/
theorem run_succ_of_step (M : Host.Core) {n : Nat} {s t : M.State} (h : M.step s = .next t) : M.run (n + 1) s = M.run n t := by
  simp only [Host.Core.run, h]

/-- `run_succ_of_step` for this machine. -/
theorem run_succ {n : Nat} {s t : State} (h : step s = .next t) :
    Host.Core.run Sys2Proof.core (n + 1) s = Host.Core.run Sys2Proof.core n t := run_succ_of_step Sys2Proof.core h

/-- A run of `m + n` steps is the run of `n` from where `m` steps lead. -/
theorem run_add_of_run (M : Host.Core) {m n : Nat} {s t : M.State} (h : M.run m s = .next t) : M.run (m + n) s = M.run n t := by
  induction m generalizing s with
  | zero => cases h; rw [Nat.zero_add]
  | succ m ih =>
    rw [Nat.succ_add]
    simp only [Host.Core.run] at h ⊢
    cases hs : M.step s with
    | next u => rw [hs] at h; exact ih h
    | fault r => rw [hs] at h; cases h
    | refused r => rw [hs] at h; cases h

/-- A Tick in Running mode runs the instruction the word at pc decodes to (R89). -/
theorem runs_of_fetched {s : State} {i : Instr} (he : s.nextEvent = .tick) (hm : s.mode = .running)
    (hd : decode (s.readWord s.pc) = i) : Safety.Runs s i := hd ▸ .fetched he hm

/-- An Exec in Interactive mode runs the instruction its triple stands for (R87). -/
theorem runs_of_submitted {s : State} {f : Fields} {i : Instr} (he : s.nextEvent = .request (.exec f))
    (hm : s.mode = .interactive) (hf : instrOf f = i) : Safety.Runs s i := hf ▸ .submitted f he hm

end Sys2Proof.Machine
end

