-- ==== Sys2Proof/Tests/Slice0.lean ====
section
/-! SUPPORT. Tests: decoding of words written out from spec/30_encoding.md and spec/95_test_vectors.md, the smoke tests of
WellFormed, one or two steps per instruction and request from the vectors of spec/95_test_vectors.md, and a witness for every
statement that has hypotheses. -/

namespace Sys2Proof.Tests

open Sys2Proof.Machine Sys2Proof.Safety

/-- The reset state in a given mode, at a given pc, with given events to come. -/
def standing (m : Mode) (pc : PAddr) (events : List Event) : State :=
  { State.reset with mode := m, pc := pc, inputs := events }

/-- The start of the vectors of spec/95_test_vectors.md sections 3 and 4: pc 4, the listed registers set. -/
def vector (regs : List (RegAddr × Nibble)) : State :=
  regs.foldl (fun s c => s.writeReg c.1 c.2) (standing .interactive 4 [])

/-- Register `r` and pc after one cycle of `i`. -/
def after (i : Instr) (s : State) (r : RegAddr) : Option (Nibble × PAddr) :=
  match exec i s with
  | .next t => some (t.readReg r, t.pc)
  | .fault _ => none
  | .refused _ => none

/-- What `f` reads of the state after one step. -/
def stepped {α : Type} (s : State) (f : State → α) : Option α :=
  match step s with
  | .next t => some (f t)
  | .fault _ => none
  | .refused _ => none

/-! Decoding: each word is written out bit by bit from the encoding column of R61 and the vectors of spec/95_test_vectors.md. -/

theorem test_decode_add : decode 0b00000010010#11 = .add 1 2 := by decide
theorem test_decode_sub : decode 0b00100010010#11 = .sub 1 2 := by decide
theorem test_decode_mov : decode 0b01010100101#11 = .mov 10 5 := by decide
theorem test_decode_immd : decode 0b01100010101#11 = .immd 1 5 := by decide
theorem test_decode_jmp_if_zero : decode 0b10001010010#11 = .jmpIfZero 5 2 := by decide
theorem test_decode_and : decode 0b10100010010#11 = .and 1 2 := by decide
theorem test_decode_or : decode 0b11000010010#11 = .or 1 2 := by decide
theorem test_decode_not : decode 0b11111111111#11 = .not 15 15 := by decide
theorem test_decode_zero_word : decode 0x000#11 = .add 0 0 := by decide
theorem test_encode_immd : encodeNat 3 1 5 = 0x315#11 := by decide
theorem test_encode_reduces : encodeNat 11 17 21 = 0x315#11 := by decide
theorem test_decode_refuses_wide : decodeNat 0x800 = .error .widerThanAWord := rfl
theorem test_table_word : decodeTableWord 16 0x734 = some (.not 3 4) := by decide
theorem test_table_word_refused : decodeTableWord 16 0x812 = none := by decide
theorem test_to_bits : serialize 0x315#11 = [false, true, true, false, false, false, true, false, true, false, true] := by decide
theorem test_from_bits : fromBits [true, false, true, false] = 10 := by decide
theorem test_to_bits_reduces : toBits 17 4 = [false, false, false, true] := by decide
theorem test_asm_immd : (Instr.immd 4 3).asm = "IMMD r4, #3" := by decide
theorem test_asm_jmp : (Instr.jmpIfZero 10 1).asm = "JMP_IF_ZERO #10, r1" := by decide

/-! WellFormed: for each check an ill-formed term that it refuses (D18, R61, R117), and the literal 15 it does not refuse. -/

theorem test_ill_formed_add : Instr.wellFormed Config.r15Reserved (.add 1 15) = false := by decide
theorem test_ill_formed_sub : Instr.wellFormed Config.r15Reserved (.sub 15 1) = false := by decide
theorem test_ill_formed_mov : Instr.wellFormed Config.r15Reserved (.mov 0 15) = false := by decide
theorem test_ill_formed_immd : Instr.wellFormed Config.r15Reserved (.immd 15 0) = false := by decide
theorem test_ill_formed_jmp : Instr.wellFormed Config.r15Reserved (.jmpIfZero 0 15) = false := by decide
theorem test_ill_formed_and : Instr.wellFormed Config.r15Reserved (.and 15 15) = false := by decide
theorem test_ill_formed_or : Instr.wellFormed Config.r15Reserved (.or 2 15) = false := by decide
theorem test_ill_formed_not : Instr.wellFormed Config.r15Reserved (.not 15 2) = false := by decide
theorem test_literal_fifteen_is_no_register : Instr.wellFormed Config.r15Reserved (.jmpIfZero 15 14) = true := by decide
theorem test_loadable_refuses_none : loadable [] = false := by decide
theorem test_loadable_refuses_seventeen : loadable (List.replicate 17 ⟨2, 0, 0⟩) = false := by decide
theorem test_memory_refuses_order : Memory.wf [(3, 1#11), (2, 1#11)] = false := by decide
theorem test_memory_refuses_zero_entry : Memory.wf [(3, 0#11)] = false := by decide
theorem test_memory_refuses_outside : Memory.wf [(16, 1#11)] = false := by decide

/-! Instructions: the vectors named (spec/95_test_vectors.md sections 3 to 5). -/

theorem test_add_wraps_v_a1 : after (.add 1 2) (vector [(1, 15), (2, 2)]) 0 = some (1, 5) := by decide
theorem test_add_destination_is_source_v_a5 : after (.add 0 1) (vector [(0, 3), (1, 4)]) 0 = some (7, 5) := by decide
theorem test_sub_borrows_v_s1 : after (.sub 1 2) (vector [(1, 2), (2, 5)]) 0 = some (13, 5) := by decide
theorem test_sub_destination_is_source_v_s6 : after (.sub 0 1) (vector [(0, 1), (1, 3)]) 0 = some (14, 5) := by decide
theorem test_and_v_n1 : after (.and 1 2) (vector [(1, 6), (2, 3)]) 0 = some (2, 5) := by decide
theorem test_and_mask_v_n2 : after (.and 1 2) (vector [(1, 15), (2, 9)]) 0 = some (9, 5) := by decide
theorem test_or_v_o1 : after (.or 1 2) (vector [(1, 6), (2, 3)]) 0 = some (7, 5) := by decide
theorem test_or_zero_v_o2 : after (.or 1 2) (vector [(1, 0), (2, 9)]) 0 = some (9, 5) := by decide
theorem test_not_v_t1 : after (.not 1 2) (vector [(1, 5)]) 2 = some (10, 5) := by decide
theorem test_not_register_15_v_t6 : after (.not 4 15) (vector [(4, 3)]) 15 = some (12, 5) := by decide
theorem test_mov_v_m1 : after (.mov 0 7) (vector [(0, 8), (7, 3)]) 7 = some (8, 5) := by decide
theorem test_mov_register_15_v_m3 : after (.mov 15 1) (vector [(15, 12)]) 1 = some (12, 5) := by decide
theorem test_immd_v_i1 : after (.immd 4 3) (vector [(4, 7)]) 4 = some (3, 5) := by decide
theorem test_immd_literal_is_no_register_v_i5 : after (.immd 3 3) (vector [(3, 10)]) 3 = some (3, 5) := by decide
theorem test_jump_taken_v_j1 : after (.jmpIfZero 5 2) (standing .running 0 []) 2 = some (0, 5) := by decide
theorem test_jump_not_taken_wraps_v_j4 :
    after (.jmpIfZero 3 1) ((standing .running 15 []).writeReg 1 4) 1 = some (4, 0) := by decide

/-! The controller: the vectors named (spec/95_test_vectors.md section 6). -/

theorem test_exec_request_v_c1 :
    stepped (standing .interactive 0 [.request (.exec ⟨3, 1, 7⟩)]) (fun t => (t.readReg 1, t.pc, t.resp)) =
      some (7, 1, .ok) := by decide
theorem test_end_out_of_sequence_v_c3 :
    stepped (standing .interactive 3 [.request .endCapture]) (fun t => (t.pc, t.mode, t.resp)) =
      some (3, .interactive, .outOfSequence) := by decide
theorem test_last_capture_v_c5 :
    stepped (standing .programming 15 [.request (.capture ⟨2, 0, 0⟩)]) (fun t => (t.readWord 15, t.pc, t.mode, t.resp)) =
      some (0x200#11, 0, .interactive, .captured 15) := by decide
theorem test_capture_v_c6 :
    stepped (standing .programming 1 [.request (.capture ⟨3, 2, 3⟩)]) (fun t => (t.readWord 1, t.pc, t.mode, t.resp)) =
      some (0x323#11, 2, .programming, .captured 1) := by decide
theorem test_begin_refused_in_running_v_c9 :
    stepped (standing .running 2 [.request .beginCapture]) (fun t => (t.pc, t.mode, t.resp)) =
      some (2, .running, .outOfSequence) := by decide
theorem test_stop_v_c11 :
    stepped ((standing .running 2 [.request .stop]).writeReg 1 7) (fun t => (t.mode, t.pc, t.readReg 1, t.resp)) =
      some (.interactive, 2, 7, .ok) := by decide
theorem test_run_v_c13 :
    stepped ((standing .interactive 10 [.request (.run ⟨10, by decide⟩)]).writeReg 1 7)
      (fun t => (t.mode, t.pc, t.rate.val, t.readReg 1)) = some (.running, 0, 10, 7) := by decide
theorem test_tick_outside_running_v_c14 :
    stepped (standing .interactive 0 [.tick]) (fun t => (t.mode, t.pc, t.resp)) = some (.interactive, 0, .none) := by decide
theorem test_reset_in_programming_v_c16 :
    stepped ((standing .programming 3 [.request .reset]).writeWord 2 0x425#11) (fun t => (t.mode, t.pc, t.pmem, t.resp)) =
      some (.interactive, 0, [], .ok) := by decide
theorem test_tick_runs_zero_word_v_c17 :
    stepped ((standing .running 0 [.tick]).writeReg 0 3) (fun t => (t.readReg 0, t.pc, t.resp)) = some (6, 1, .none) := by decide
theorem test_placed_word_runs_after_reset :
    stepped (State.reset.withFetchWord 16 0x343) (fun t => (t.readReg 4, t.pc)) = some (3, 1) := by decide
theorem test_rewriting_zero_unlists : Memory.write (Memory.write [] 3 5#11) 3 0#11 = [] := by decide

/-! Witnesses: for each statement with hypotheses, a state and operands that meet them all. -/

theorem witness_bit_codec_width_one : 1 ≤ 1 ∧ toBits 3 1 = [true] := by decide
theorem witness_bit_codec_first_bit : 0 < 1 ∧ (toBits 3 1)[0]? = some true := by decide
theorem witness_bit_codec_last_bit : 3 < 4 ∧ (toBits 5 4)[3]? = some true := by decide

theorem witness_jump_condition_met : (standing .running 15 []).readReg 15 = 0#4 := by decide
theorem witness_jump_condition_not_met : ((standing .running 15 []).writeReg 15 15).readReg 15 ≠ 0#4 := by decide

/-- Two states that differ, and agree on the registers `ADD r1, r15` reads. -/
theorem witness_instructions_read_only_table_registers :
    (∀ r ∈ registersRead (.add 1 15), ((vector [(15, 9)]).writeReg 3 7).readReg r = (vector [(15, 9)]).readReg r) ∧
      ((vector [(15, 9)]).writeReg 3 7).pc = (vector [(15, 9)]).pc ∧
      registerWritten (.add 1 15) = some 0 ∧ registerWritten (.add 1 15) ≠ some 3 := by decide

theorem witness_register15_named : 15#4 ∈ (Instr.not 0 15).registerOperands := by decide
theorem witness_register15_not_named : 15#4 ∉ (Instr.jmpIfZero 15 14).registerOperands := by decide

theorem witness_running_tick :
    (standing .running 15 []).mode = .running ∧ (standing .running 15 []).nextEvent = .tick ∧
      decode ((standing .running 15 []).readWord 15) = .add 0 0 ∧
      (Instr.add 0 0).wellFormed Config.standard = true := by decide

theorem witness_interactive_exec :
    (standing .interactive 0 [.request (.exec ⟨7, 15, 15⟩)]).mode = .interactive ∧
      (standing .interactive 0 [.request (.exec ⟨7, 15, 15⟩)]).nextEvent = .request (.exec ⟨7, 15, 15⟩) := by decide

theorem witness_begin :
    (standing .interactive 9 [.request .beginCapture]).mode = .interactive ∧
      (standing .interactive 9 [.request .beginCapture]).nextEvent = .request .beginCapture := by decide

theorem witness_capture_below_the_top :
    (standing .programming 14 [.request (.capture ⟨7, 15, 15⟩)]).mode = .programming ∧
      (standing .programming 14 [.request (.capture ⟨7, 15, 15⟩)]).nextEvent = .request (.capture ⟨7, 15, 15⟩) ∧
      (standing .programming 14 [.request (.capture ⟨7, 15, 15⟩)]).pc ≠ 15#4 := by decide

theorem witness_capture_at_the_top :
    (standing .programming 15 [.request (.capture ⟨0, 0, 0⟩)]).mode = .programming ∧
      (standing .programming 15 [.request (.capture ⟨0, 0, 0⟩)]).nextEvent = .request (.capture ⟨0, 0, 0⟩) ∧
      (standing .programming 15 [.request (.capture ⟨0, 0, 0⟩)]).pc = 15#4 := by decide

theorem witness_end :
    (standing .programming 3 [.request .endCapture]).mode = .programming ∧
      (standing .programming 3 [.request .endCapture]).nextEvent = .request .endCapture := by decide

theorem witness_run :
    (standing .interactive 3 [.request (.run ⟨1, by decide⟩)]).mode = .interactive ∧
      (standing .interactive 3 [.request (.run ⟨1, by decide⟩)]).nextEvent = .request (.run ⟨1, by decide⟩) := by decide

theorem witness_stop :
    (standing .running 3 [.request .stop]).mode = .running ∧
      (standing .running 3 [.request .stop]).nextEvent = .request .stop := by decide

theorem witness_tick_outside_running :
    (standing .interactive 3 []).mode ≠ .running ∧ (standing .interactive 3 []).nextEvent = .tick ∧
      (standing .programming 3 [.tick]).mode ≠ .running ∧ (standing .programming 3 [.tick]).nextEvent = .tick := by decide

theorem witness_reset : (standing .running 3 [.request .reset]).nextEvent = .request .reset := by decide

theorem witness_reset_twice :
    (standing .running 3 [.request .reset, .request .reset, .tick]).inputs = [.request .reset, .request .reset, .tick] ∧
      (standing .programming 9 [.request .reset, .tick]).inputs = [.request .reset, .tick] := by decide

theorem witness_request_refused :
    (standing .programming 3 [.request .stop]).nextEvent = .request .stop ∧
      accepts .stop (standing .programming 3 [.request .stop]).mode = false := by decide

theorem witness_request_accepted :
    (standing .programming 3 [.request .reset]).nextEvent = .request .reset ∧
      accepts .reset (standing .programming 3 [.request .reset]).mode = true ∧ ∀ f, Request.reset ≠ .capture f := by
  refine ⟨by decide, by decide, fun f h => by cases h⟩

theorem witness_capture_accepted :
    (standing .programming 15 [.request (.capture ⟨1, 2, 3⟩)]).nextEvent = .request (.capture ⟨1, 2, 3⟩) ∧
      accepts (.capture ⟨1, 2, 3⟩) (standing .programming 15 [.request (.capture ⟨1, 2, 3⟩)]).mode = true ∧
      ∃ f, Request.capture ⟨1, 2, 3⟩ = .capture f := ⟨by decide, by decide, _, rfl⟩

theorem witness_mode_changes :
    ∃ t, step (standing .running 3 [.request .stop]) = .next t ∧ t.mode ≠ (standing .running 3 [.request .stop]).mode :=
  ⟨_, rfl, by decide⟩

theorem witness_mode_changes_at_end_of_capture :
    ∃ t, step (standing .programming 15 [.request (.capture ⟨1, 2, 3⟩)]) = .next t ∧
      t.mode ≠ (standing .programming 15 [.request (.capture ⟨1, 2, 3⟩)]).mode := ⟨_, rfl, by decide⟩

theorem witness_pc_changes :
    ∃ t, step (standing .running 15 []) = .next t ∧ t.pc ≠ (standing .running 15 []).pc := ⟨_, rfl, by decide⟩

theorem witness_word_changes :
    ∃ t, step (standing .programming 15 [.request (.capture ⟨1, 2, 3⟩)]) = .next t ∧
      t.readWord 15 ≠ (standing .programming 15 [.request (.capture ⟨1, 2, 3⟩)]).readWord 15 := ⟨_, rfl, by decide⟩

theorem witness_register_changes :
    ∃ t, step (standing .interactive 0 [.request (.exec ⟨3, 15, 1⟩)]) = .next t ∧
      t.readReg 15 ≠ (standing .interactive 0 [.request (.exec ⟨3, 15, 1⟩)]).readReg 15 := ⟨_, rfl, by decide⟩

theorem witness_invariant_step :
    Inv (standing .programming 15 [.request (.capture ⟨1, 2, 3⟩)]) ∧
      ∃ t, step (standing .programming 15 [.request (.capture ⟨1, 2, 3⟩)]) = .next t ∧ t.pmem = [(15, 0x123#11)] :=
  ⟨by decide, _, rfl, by decide⟩

theorem witness_canonical_memories :
    Memory.wf [(0, 1#11), (15, 2#11)] = true ∧
      ∀ a : PAddr, Memory.read [(0, 1#11), (15, 2#11)] a.toNat =
        Memory.read (Memory.write (Memory.write [] 15 2#11) 0 1#11) a.toNat := by decide

theorem witness_running_without_events :
    (standing .running 15 []).mode = .running ∧ (standing .running 15 []).inputs = [] := by decide

/-- `HALT r15` at address 15 (R62). -/
def haltState : State := (standing .running 15 [.tick, .tick]).writeWord 15 (encode (.halt 15 15))

theorem witness_halted : halted haltState = true ∧ haltState.inputs = List.replicate 2 .tick := by decide

theorem witness_no_jump_in_memory :
    (standing .running 15 [.tick]).mode = .running ∧ (standing .running 15 [.tick]).inputs = List.replicate 1 .tick ∧
      ∀ a target test, decode ((standing .running 15 [.tick]).readWord a) ≠ .jmpIfZero target test :=
  ⟨by decide, by decide, fun _ target test h => by
    have zero : decode 0x000#11 = .jmpIfZero target test := h
    rw [test_decode_zero_word] at zero
    cases zero⟩

theorem witness_loader_of_none :
    (standing .interactive 7 (loadEvents [] ++ [.tick])).mode = .interactive ∧ ([] : List Fields).length ≤ 16 ∧
      (standing .interactive 7 (loadEvents [] ++ [.tick])).inputs = loadEvents [] ++ [.tick] ∧
      ([] : List Fields).length ≤ (0#4).toNat := by decide

/-- Sixteen words to load, the most one Begin takes. -/
def sixteen : List Fields := List.replicate 16 ⟨2, 0, 15⟩

theorem witness_loader_of_sixteen :
    (standing .interactive 7 (loadEvents sixteen)).mode = .interactive ∧ sixteen.length ≤ 16 ∧
      (standing .interactive 7 (loadEvents sixteen)).inputs = loadEvents sixteen ++ [] ∧
      sixteen[(15#4).toNat]? = some ⟨2, 0, 15⟩ := by decide

theorem witness_boot_of_one :
    loadable [⟨3, 1, 5⟩] = true ∧
      (standing .running 7 (bootEvents [⟨3, 1, 5⟩] ⟨1, by decide⟩)).inputs = bootEvents [⟨3, 1, 5⟩] ⟨1, by decide⟩ ++ [] ∧
      [(⟨3, 1, 5⟩ : Fields)][(0#4).toNat]? = some ⟨3, 1, 5⟩ ∧ [(⟨3, 1, 5⟩ : Fields)].length ≤ (1#4).toNat := by decide

theorem witness_boot_of_sixteen :
    loadable sixteen = true ∧
      (standing .programming 7 (bootEvents sixteen ⟨9, by decide⟩)).inputs = bootEvents sixteen ⟨9, by decide⟩ ++ [] := by decide

/-- `IMMD r15, #v` at address 15 and `JMP_IF_ZERO #9, r15` at address 0, where the pc wraps. -/
def writeThenTest (v : Nibble) : State :=
  ((standing .running 15 [.tick, .tick]).writeWord 15 (encode (.immd 15 v))).writeWord 0 (encode (.jmpIfZero 9 15))

theorem witness_jump_after_write_of_zero :
    Runs (writeThenTest 0) (.immd 15 0) ∧ registerWritten (.immd 15 0) = some 15 ∧
      ∃ u, step (writeThenTest 0) = .next u ∧ Runs u (.jmpIfZero 9 15) ∧ u.readReg 15 = 0#4 :=
  ⟨runs_of_fetched (by decide) (by decide) (by decide), by decide, _, rfl,
    runs_of_fetched (by decide) (by decide) (by decide), by decide⟩

theorem witness_jump_after_write_of_fifteen :
    Runs (writeThenTest 15) (.immd 15 15) ∧ registerWritten (.immd 15 15) = some 15 ∧
      ∃ u, step (writeThenTest 15) = .next u ∧ Runs u (.jmpIfZero 9 15) ∧ u.readReg 15 ≠ 0#4 :=
  ⟨runs_of_fetched (by decide) (by decide) (by decide), by decide, _, rfl,
    runs_of_fetched (by decide) (by decide) (by decide), by decide⟩

/-- An Exec of `ADD r15, r15` and one of `JMP_IF_ZERO #9, r0`, with `v` in register 15. -/
def addThenTest (v : Nibble) : State :=
  (standing .interactive 15 [.request (.exec ⟨0, 15, 15⟩), .request (.exec ⟨4, 9, 0⟩)]).writeReg 15 v

theorem witness_jump_after_sum_that_wraps_to_zero :
    Runs (addThenTest 8) (.add 15 15) ∧ registerWritten (.add 15 15) = some 0 ∧
      ∃ u, step (addThenTest 8) = .next u ∧ Runs u (.jmpIfZero 9 0) ∧ u.readReg 0 = 0#4 :=
  ⟨runs_of_submitted (f := ⟨0, 15, 15⟩) (by decide) (by decide) (by decide), by decide, _, rfl,
    runs_of_submitted (f := ⟨4, 9, 0⟩) (by decide) (by decide) (by decide), by decide⟩

theorem witness_jump_after_sum_of_fourteen :
    Runs (addThenTest 7) (.add 15 15) ∧ registerWritten (.add 15 15) = some 0 ∧
      ∃ u, step (addThenTest 7) = .next u ∧ Runs u (.jmpIfZero 9 0) ∧ u.readReg 0 ≠ 0#4 :=
  ⟨runs_of_submitted (f := ⟨0, 15, 15⟩) (by decide) (by decide) (by decide), by decide, _, rfl,
    runs_of_submitted (f := ⟨4, 9, 0⟩) (by decide) (by decide) (by decide), by decide⟩

theorem witness_increment_at_fifteen : (standing .running 15 []).pc = 15#4 := by decide

theorem witness_placed_word : decodeTableWord 11 (0x7FF#11 : Word).toNat = some (.not 15 15) := by decide

end Sys2Proof.Tests
end

/-! SUPPORT. What one cycle of an instruction does to the state, said once for all eight (spec/10_state.md R31, R60, R75): its
value goes to the one register of the table, pc goes where the table says, and nothing else changes. -/

namespace Sys2Proof.Machine

open Sys2Proof.Safety

/-- The value an instruction writes to its destination (R65 to R72). JMP_IF_ZERO has no destination, and its value here is never
used. -/
def valueWritten (i : Instr) (s : State) : Nibble :=
  match i with
  | .add a b => aluAdd (s.readReg a) (s.readReg b)
  | .sub a b => aluSub (s.readReg a) (s.readReg b)
  | .mov src _ => s.readReg src
  | .immd _ value => literalValue value
  | .jmpIfZero _ _ => 0#4
  | .and a b => aluAnd (s.readReg a) (s.readReg b)
  | .or a b => aluOr (s.readReg a) (s.readReg b)
  | .not src _ => aluNot (s.readReg src)

/-- `x[dst] <- v` where there is a destination, and nothing where there is none. -/
def State.writeDest (s : State) (dst : Option RegAddr) (v : Nibble) : State :=
  match dst with
  | some r => s.writeReg r v
  | none => s

/-- The state after one cycle of `i` (`exec_eq_afterCycle`). -/
def State.afterCycle (s : State) (i : Instr) : State :=
  (s.writeDest (registerWritten i) (valueWritten i s)).setPc (pcAfter i s)

/-- `exec` is the cycle of the configuration the core runs in (D18). -/
theorem exec_eq_execUnder_standard (i : Instr) (s : State) : exec i s = execUnder Config.standard i s := by
  cases i <;> rfl

/-- A cycle is the dispatch and then the advance of pc, for every instruction (R96). -/
theorem exec_eq_advance (i : Instr) (s : State) : exec i s = .next (dispatch i s).advance := by
  rw [exec_eq_execUnder_standard, execUnder, runCycle_standard]

theorem dispatch_advance (i : Instr) (s : State) : (dispatch i s).advance = s.afterCycle i := by
  cases i with
  | jmpIfZero target test =>
    obtain ⟨hz, hd⟩ | ⟨hz, hd⟩ := dispatchJmpIfZero_cases target test s
    · simp [dispatch, hd, State.afterCycle, State.writeDest, registerWritten, pcAfter, hz]
    · simp [dispatch, hd, State.afterCycle, State.writeDest, registerWritten, pcAfter, hz, State.incPc]
  | _ => rfl

/-- Every instruction executes in every state, with the effect of the table of R31 (R96, R100). -/
theorem exec_eq_afterCycle (i : Instr) (s : State) : exec i s = .next (s.afterCycle i) := by
  rw [exec_eq_advance, dispatch_advance]

@[simp] theorem State.afterCycle_pc (s : State) (i : Instr) : (s.afterCycle i).pc = pcAfter i s := rfl

theorem State.afterCycle_readReg_written (s : State) {i : Instr} {r : RegAddr} (h : registerWritten i = some r) :
    (s.afterCycle i).readReg r = valueWritten i s := by
  simp [State.afterCycle, h, State.writeDest]

theorem State.afterCycle_readReg_other (s : State) {i : Instr} {r : RegAddr} (h : registerWritten i ≠ some r) :
    (s.afterCycle i).readReg r = s.readReg r := by
  cases hw : registerWritten i with
  | none => simp [State.afterCycle, hw, State.writeDest]
  | some dst =>
    have hne : r ≠ dst := fun e => h (e ▸ hw)
    simp [State.afterCycle, hw, State.writeDest, State.readReg_writeReg_other s _ hne]

/-- What no instruction touches (R25, R64, R73). -/
theorem keepsAllButRegistersAndPc_afterCycle (s : State) (i : Instr) :
    KeepsAllButRegistersAndPc s (s.afterCycle i) := by
  unfold State.afterCycle
  cases registerWritten i <;> exact ⟨fun _ => rfl, rfl, rfl, rfl, rfl⟩

section Noninterference

variable {i : Instr} {s s' : State}

/-- The value written depends on no register but those the table of R31 says are read. -/
theorem valueWritten_congr (h : ∀ r ∈ registersRead i, s'.readReg r = s.readReg r) :
    valueWritten i s' = valueWritten i s := by
  cases i with
  | immd | jmpIfZero => rfl
  | _ =>
    simp only [registersRead, List.forall_mem_cons] at h
    simp [valueWritten, h]

/-- Where pc goes depends on pc and on no register but those the table of R31 says are read. -/
theorem pcAfter_congr (h : ∀ r ∈ registersRead i, s'.readReg r = s.readReg r) (hpc : s'.pc = s.pc) :
    pcAfter i s' = pcAfter i s := by
  cases i with
  | jmpIfZero target test =>
    have htest : s'.readReg test = s.readReg test := h test (by simp [registersRead])
    simp [pcAfter, htest, hpc]
  | _ => simp [pcAfter, hpc]

end Noninterference

/-- The event taken has no part in where pc goes. -/
@[simp] theorem pcAfter_dropEvent (i : Instr) (s : State) : pcAfter i s.dropEvent = pcAfter i s :=
  pcAfter_congr (fun _ _ => rfl) rfl

end Sys2Proof.Machine

/-! SUPPORT. Everything one step can be, event by event and mode by mode (spec/45_controller_and_loader.md R82 to R93, R96). -/

namespace Sys2Proof.Machine

/-- What a step from `s` leads to: a constructor for each event and mode that differ in effect, over the state whose event has
been taken. -/
inductive StepsTo (s : State) : State → Prop where
  /-- A request the mode does not accept (R83). -/
  | refused (q : Request) (event : s.nextEvent = .request q) (rejected : accepts q s.mode = false) :
      StepsTo s (s.dropEvent.respond .outOfSequence)
  /-- Reset, in any mode (R93). -/
  | reset (event : s.nextEvent = .request .reset) : StepsTo s (performReset s.dropEvent)
  /-- Exec in Interactive mode (R87). -/
  | executed (f : Fields) (event : s.nextEvent = .request (.exec f)) (mode : s.mode = .interactive) :
      StepsTo s ((s.dropEvent.afterCycle (instrOf f)).respond .ok)
  /-- Begin in Interactive mode (R84). -/
  | began (event : s.nextEvent = .request .beginCapture) (mode : s.mode = .interactive) :
      StepsTo s (performBegin s.dropEvent)
  /-- Capture in Programming mode, at an address below 15 (R85). -/
  | captured (f : Fields) (event : s.nextEvent = .request (.capture f)) (mode : s.mode = .programming)
      (below : s.pc ≠ 15#4) :
      StepsTo s (((s.dropEvent.writeWord s.pc (encodeFields f)).incPc).respond (.captured s.pc))
  /-- Capture in Programming mode at address 15, which ends capture (R86). -/
  | capturedLast (f : Fields) (event : s.nextEvent = .request (.capture f)) (mode : s.mode = .programming)
      (last : s.pc = 15#4) :
      StepsTo s (leaveCapture (((s.dropEvent.writeWord s.pc (encodeFields f)).incPc).respond (.captured s.pc)))
  /-- End in Programming mode (R92). -/
  | ended (event : s.nextEvent = .request .endCapture) (mode : s.mode = .programming) : StepsTo s (performEnd s.dropEvent)
  /-- Run in Interactive mode (R88). -/
  | started (r : Rate) (event : s.nextEvent = .request (.run r)) (mode : s.mode = .interactive) :
      StepsTo s (performRun r s.dropEvent)
  /-- Stop in Running mode (R91). -/
  | stopped (event : s.nextEvent = .request .stop) (mode : s.mode = .running) : StepsTo s (performStop s.dropEvent)
  /-- A Tick in Running mode (R89). -/
  | fetched (event : s.nextEvent = .tick) (mode : s.mode = .running) :
      StepsTo s ((s.dropEvent.afterCycle s.fetch).respond .none)
  /-- A Tick in another mode (R90). -/
  | idle (event : s.nextEvent = .tick) (mode : s.mode ≠ .running) : StepsTo s (s.dropEvent.respond .none)

/-- An accepted request goes on, as its constructor says. -/
theorem perform_stepsTo {s : State} {q : Request} (event : s.nextEvent = .request q) (accepted : accepts q s.mode = true) :
    ∃ t, perform q s.dropEvent = .next t ∧ StepsTo s t := by
  cases q with
  | reset => exact ⟨_, rfl, .reset event⟩
  | exec f =>
    refine ⟨_, ?_, .executed f event (by simpa [accepts] using accepted)⟩
    simp [perform, performExec, exec_eq_afterCycle]
  | beginCapture => exact ⟨_, rfl, .began event (by simpa [accepts] using accepted)⟩
  | capture f =>
    have mode : s.mode = .programming := by simpa [accepts] using accepted
    by_cases top : s.pc = 15#4
    · exact ⟨_, congrArg Host.Outcome.next (performCapture_last (s := s.dropEvent) f top), .capturedLast f event mode top⟩
    · exact ⟨_, congrArg Host.Outcome.next (performCapture_below (s := s.dropEvent) f top), .captured f event mode top⟩
  | endCapture => exact ⟨_, rfl, .ended event (by simpa [accepts] using accepted)⟩
  | run r => exact ⟨_, rfl, .started r event (by simpa [accepts] using accepted)⟩
  | stop => exact ⟨_, rfl, .stopped event (by simpa [accepts] using accepted)⟩

/-- A Tick goes on, with a cycle in Running mode and without one in the others (R89, R90). -/
theorem performTick_stepsTo {s : State} (event : s.nextEvent = .tick) :
    ∃ t, performTick s.dropEvent = .next t ∧ StepsTo s t := by
  cases mode : s.mode with
  | running =>
    refine ⟨_, ?_, .fetched event mode⟩
    have hfetch : s.dropEvent.fetch = s.fetch := rfl
    simp [performTick, mode, hfetch, exec_eq_afterCycle]
  | interactive => exact ⟨_, by simp [performTick, mode], .idle event (by simp [mode])⟩
  | programming => exact ⟨_, by simp [performTick, mode], .idle event (by simp [mode])⟩

/-- Every step goes on, to a state of `StepsTo` (R96, R100). -/
theorem step_stepsTo (s : State) : ∃ t, step s = .next t ∧ StepsTo s t := by
  unfold step
  obtain ⟨q, event, rejected, hstep⟩ | ⟨q, event, accepted, hstep⟩ | ⟨event, hstep⟩ :=
    stepEvent_cases s.nextEvent s.dropEvent <;> rw [hstep]
  · exact ⟨_, rfl, .refused q event rejected⟩
  · exact perform_stepsTo event accepted
  · exact performTick_stepsTo event

/-- The inversion of a step: where it leads is a state of `StepsTo`. -/
theorem stepsTo_of_step {s t : State} (h : step s = .next t) : StepsTo s t := by
  obtain ⟨u, hu, hsu⟩ := step_stepsTo s
  obtain rfl : u = t := Host.Outcome.next.inj (hu.symm.trans h)
  exact hsu

end Sys2Proof.Machine

/-! SUPPORT. What the equality of two snapshots says of what is read of the two states (spec/10_state.md R30). -/

namespace Sys2Proof.Machine

/-- Two states have the same register file exactly when every register reads the same. -/
theorem State.x_eq_iff (s t : State) : s.x = t.x ↔ ∀ r, s.readReg r = t.readReg r :=
  ⟨fun h r => by simp only [State.readReg, h], State.x_ext⟩

/-- Two snapshots show the same program memory exactly when every word reads the same. -/
theorem State.snapshot_pmem_eq_iff (s t : State) :
    s.snapshot.pmem = t.snapshot.pmem ↔ ∀ a, s.readWord a = t.readWord a := by
  constructor
  · intro h a
    have hword := congrArg (fun words => words[a.toNat]'a.isLt) h
    simpa [State.snapshot, State.readWord] using hword
  · intro h
    apply Vector.ext
    intro k hk
    have hword := h (BitVec.ofNatLT k hk)
    simpa [State.snapshot, State.readWord] using hword

end Sys2Proof.Machine

/-! The statements about the state (spec/10_state.md): what instructions read and write (R31), the writers of pc (R20, R22) and
the snapshot (R30). -/

namespace Sys2Proof.Machine

/-- Settles O18: both runs end in `afterCycle`, whose written value and pc depend on the registers read only. -/
theorem instructionsReadAndWriteOnlyTheirTableRegisters : Obligations.InstructionsReadAndWriteOnlyTheirTableRegisters := by
  intro i s s' hread hpc
  refine ⟨_, _, exec_eq_afterCycle i s, exec_eq_afterCycle i s', s.afterCycle_pc i, pcAfter_congr hread hpc, ?_,
    fun r h => s.afterCycle_readReg_other h⟩
  intro r hr
  rw [s'.afterCycle_readReg_written hr, s.afterCycle_readReg_written hr, valueWritten_congr hread]

/-- Settles O36, by the cases of a step: those that change pc are the listed writers. -/
theorem pcIsWrittenOnlyByItsListedWriters : Obligations.PcIsWrittenOnlyByItsListedWriters := by
  intro s t hstep hpc
  cases stepsTo_of_step hstep with
  | refused => exact absurd rfl hpc
  | stopped => exact absurd rfl hpc
  | idle => exact absurd rfl hpc
  | executed f event mode => exact .inl ⟨_, .submitted f event mode, pcAfter_dropEvent _ s⟩
  | fetched event mode => exact .inl ⟨_, .fetched event mode, pcAfter_dropEvent _ s⟩
  | captured f event mode => exact .inr (.inl ⟨mode, rfl, f, event⟩)
  | began event mode => exact .inr (.inr ⟨rfl, .inl ⟨mode, event⟩⟩)
  | ended event mode => exact .inr (.inr ⟨rfl, .inr (.inl ⟨mode, event⟩)⟩)
  | capturedLast f event mode last => exact .inr (.inr ⟨rfl, .inr (.inr (.inl ⟨mode, last, f, event⟩))⟩)
  | started r event mode => exact .inr (.inr ⟨rfl, .inr (.inr (.inr (.inl ⟨mode, r, event⟩)))⟩)
  | reset event => exact .inr (.inr ⟨rfl, .inr (.inr (.inr (.inr event)))⟩)

/-- Settles O39: the four fields of the snapshot, each as what a read of the state shows. -/
theorem snapshotShowsExactlyTheVisibleState : Obligations.SnapshotShowsExactlyTheVisibleState := by
  intro s t
  have hfields : s.snapshot = t.snapshot ↔
      s.x = t.x ∧ s.snapshot.pmem = t.snapshot.pmem ∧ s.pc = t.pc ∧ s.mode = t.mode := Iff.of_eq (Snapshot.mk.injEq ..)
  rw [hfields, State.x_eq_iff, State.snapshot_pmem_eq_iff]

/-- Settles O51: pc is a 4-bit vector, so its increment is taken modulo 16, and the increment is a write of pc alone. -/
theorem incrementWrapsModuloSixteen : Obligations.IncrementWrapsModuloSixteen := by
  intro s
  refine ⟨BitVec.toNat_add s.pc 1, fun htop => ?_, s.incPc_readReg, s.incPc_readWord, rfl, rfl, rfl, rfl⟩
  rw [State.incPc_pc, htop]
  rfl

end Sys2Proof.Machine

/-! SUPPORT. Where a read of program memory can differ after a write of a word or a cycle (spec/20_memory.md R39). -/

namespace Sys2Proof.Machine

/-- A word that a write changes is the one at its address, and then holds the value written (R36). -/
theorem State.eq_of_readWord_writeWord_ne {s : State} {p a : PAddr} {w : Word}
    (changed : (s.writeWord p w).readWord a ≠ s.readWord a) : a = p ∧ (s.writeWord p w).readWord a = w := by
  rw [State.readWord_writeWord] at changed ⊢
  by_cases here : a = p
  · exact ⟨here, if_pos here⟩
  · exact absurd (if_neg here) changed

/-- No cycle writes a word (R39, R64, R73). -/
@[simp] theorem State.afterCycle_readWord (s : State) (i : Instr) (a : PAddr) :
    (s.afterCycle i).readWord a = s.readWord a := (keepsAllButRegistersAndPc_afterCycle s i).words a

end Sys2Proof.Machine

/-! The statement about program memory (spec/20_memory.md): its writers (R39). -/

namespace Sys2Proof.Machine

/-- Settles O37, by the cases of a step: a cycle keeps every word, a Capture's write changes the word at pc only, and of the
rest only Reset touches program memory. -/
theorem programMemoryIsWrittenOnlyByCaptureAndReset : Obligations.ProgramMemoryIsWrittenOnlyByCaptureAndReset := by
  intro s t a hstep changed
  cases stepsTo_of_step hstep with
  | refused | began | ended | started | stopped | idle => exact absurd rfl changed
  | executed f => exact absurd (s.dropEvent.afterCycle_readWord (instrOf f) a) changed
  | fetched => exact absurd (s.dropEvent.afterCycle_readWord s.fetch a) changed
  | captured f event mode | capturedLast f event mode =>
    obtain ⟨here, written⟩ := State.eq_of_readWord_writeWord_ne (s := s.dropEvent) changed
    exact .inr ⟨mode, here, f, event, written⟩
  | reset event => exact .inl ⟨event, rfl⟩

end Sys2Proof.Machine

/-! SUPPORT. The three fields of a word and the word of three fields (spec/30_encoding.md R48, R53): their values as numbers, and
that joining and splitting undo each other. -/

namespace Sys2Proof

theorem wordFields_op_toNat (w : Word) : (wordFields w).op.toNat = w.toNat / 256 := by
  have split : (wordFields w).op.toNat = w.toNat / 256 % 8 := by
    rw [wordFields, BitVec.extractLsb'_toNat, Nat.shiftRight_eq_div_pow]
  have width : w.toNat < 2048 := w.isLt
  omega

theorem wordFields_a_toNat (w : Word) : (wordFields w).a.toNat = w.toNat / 16 % 16 := by
  rw [wordFields, BitVec.extractLsb'_toNat, Nat.shiftRight_eq_div_pow]

theorem wordFields_b_toNat (w : Word) : (wordFields w).b.toNat = w.toNat % 16 := by
  rw [wordFields, BitVec.extractLsb'_toNat, Nat.shiftRight_zero]

/-- A word is `op*256 + A*16 + B` of its three fields (R48). -/
theorem toNat_eq_wordFields (w : Word) :
    w.toNat = (wordFields w).op.toNat * 256 + (wordFields w).a.toNat * 16 + (wordFields w).b.toNat := by
  rw [wordFields_op_toNat, wordFields_a_toNat, wordFields_b_toNat]
  omega

/-- The word of three fields is `op*256 + A*16 + B` (R48, R53). -/
theorem encodeFields_toNat (f : Fields) : (encodeFields f).toNat = f.op.toNat * 256 + f.a.toNat * 16 + f.b.toNat := by
  simpa only [wordFields_encodeFields] using toNat_eq_wordFields (encodeFields f)

/-- Joining the three fields of a word gives the word back (R48, R53). -/
@[simp] theorem encodeFields_wordFields (w : Word) : encodeFields (wordFields w) = w :=
  BitVec.eq_of_toNat_eq ((encodeFields_toNat _).trans (toNat_eq_wordFields w).symm)

/-- A word is the word of the triple `f` exactly when its fields are `f`. -/
theorem eq_encodeFields_iff (w : Word) (f : Fields) : w = encodeFields f ↔ wordFields w = f :=
  ⟨fun h => h ▸ wordFields_encodeFields f, fun h => h ▸ (encodeFields_wordFields w).symm⟩

end Sys2Proof

/-! SUPPORT. The opcode map (spec/30_encoding.md R50): it matches triples and instructions one to one, and the mask 0x700 keeps the
opcode of a word and nothing else. -/

namespace Sys2Proof

@[simp] theorem instrOf_fields (i : Instr) : instrOf i.fields = i := by cases i <;> rfl

/-- The triple of the instruction that an opcode stands for, opcode by opcode (R50). -/
@[simp] theorem fields_instrOf (f : Fields) : (instrOf f).fields = f := by
  obtain ⟨⟨op⟩, a, b⟩ := f
  match op with
  | 0 | 1 | 2 | 3 | 4 | 5 | 6 | 7 => rfl

/-- A word decodes to the instruction whose triple it holds, and to no other (R49, R50). -/
theorem decode_eq_iff (w : Word) (i : Instr) : decode w = i ↔ wordFields w = i.fields :=
  ⟨fun h => h ▸ (fields_instrOf _).symm, fun h => (congrArg instrOf h).trans (instrOf_fields i)⟩

/-- The mask 0x700 keeps the opcode and clears both operands. -/
theorem wordFields_and_opcodeMask (w : Word) : wordFields (w &&& 0x700#11) = ⟨(wordFields w).op, 0, 0⟩ := by
  simp only [wordFields, BitVec.extractLsb'_and, Fields.mk.injEq]
  exact ⟨BitVec.and_allOnes, BitVec.and_zero, BitVec.and_zero⟩

/-- The match value of an opcode, its word with both operands zero, is met under the mask 0x700 exactly by the words that decode
to the opcode's instruction with their own operands (R50). -/
theorem and_opcodeMask_eq_iff_decode (w : Word) (op : Opcode) :
    w &&& 0x700#11 = encodeFields ⟨op, 0, 0⟩ ↔ decode w = instrOf ⟨op, w.extractLsb' 4 4, w.extractLsb' 0 4⟩ := by
  rw [eq_encodeFields_iff, wordFields_and_opcodeMask, decode_eq_iff, fields_instrOf]
  simp [wordFields]

end Sys2Proof

/-! SUPPORT. The bit codec (spec/30_encoding.md R54, R55): both directions one bit at a time, from the least significant end. -/

namespace Sys2Proof

@[simp] theorem toBits_length (v : Int) (w : Nat) : (toBits v w).length = w := by simp [toBits]

/-- Bit `j` of the sequence, counted from the most significant, is bit `w - 1 - j` of the value modulo `2 ^ w` (R54). -/
theorem toBits_getElem? (v : Int) {w j : Nat} (h : j < w) :
    (toBits v w)[j]? = some ((v % 2 ^ w).toNat.testBit (w - 1 - j)) := by
  rw [toBits, List.getElem?_map, List.getElem?_range h, Option.map_some]

/-- The reduction to one bit more: the reduction of the half, and the parity as the last bit. -/
theorem emod_two_pow_succ (v : Int) (w : Nat) : v % 2 ^ (w + 1) = 2 * (v / 2 % 2 ^ w) + v % 2 := by
  have width : (0 : Int) < 2 ^ w := by positivity
  have low := Int.emod_nonneg (v / 2) width.ne'
  have high := Int.emod_lt_of_pos (v / 2) width
  have halves : v = (2 * (v / 2 % 2 ^ w) + v % 2) + 2 ^ (w + 1) * (v / 2 / 2 ^ w) := by
    have quotient := Int.mul_ediv_add_emod (v / 2) (2 ^ w)
    rw [pow_succ']
    linarith [Int.mul_ediv_add_emod v 2]
  conv_lhs => rw [halves, Int.add_mul_emod_self_left]
  exact Int.emod_eq_of_lt (by omega) (by omega)

/-- One more bit of width puts the value's parity last, after the bits of the value's half. -/
theorem toBits_succ (v : Int) (w : Nat) : toBits v (w + 1) = toBits (v / 2) w ++ [decide (v % 2 = 1)] := by
  have reduced := emod_two_pow_succ v w
  have half : (v % 2 ^ (w + 1)).toNat / 2 = (v / 2 % 2 ^ w).toNat := by omega
  rw [toBits, List.range_succ, List.map_append]
  congr 1
  · refine List.map_congr_left fun j hj => ?_
    have index : w + 1 - 1 - j = (w - 1 - j) + 1 := by have := List.mem_range.mp hj; omega
    rw [index, Nat.testBit_add_one, half]
  · have last : (v % 2 ^ (w + 1)).toNat % 2 = 1 ↔ v % 2 = 1 := by omega
    simp [Nat.testBit_zero, last]

/-- Reading one bit more doubles the number read so far and adds the bit (R54). -/
@[simp] theorem fromBits_append_singleton (bits : List Bool) (b : Bool) :
    fromBits (bits ++ [b]) = 2 * fromBits bits + b.toNat := by
  simp [fromBits]

/-- The round-trip law (R55); at width 0 both sides are 0. -/
theorem fromBits_toBits (v : Int) (w : Nat) : (fromBits (toBits v w) : Int) = v % 2 ^ w := by
  induction w generalizing v with
  | zero => simp [toBits, fromBits]
  | succ w ih =>
    have parity : ((decide (v % 2 = 1)).toNat : Int) = v % 2 := by
      obtain even | odd := Int.emod_two_eq_zero_or_one v
      · simp [even]
      · simp [odd]
    rw [toBits_succ, fromBits_append_singleton, emod_two_pow_succ]
    push_cast
    rw [ih, parity]

/-- The number read is the sum of the bits by their weights, the last bit of weight 1 (R54). -/
theorem fromBits_eq_sum (bits : List Bool) :
    fromBits bits = ∑ i ∈ Finset.range bits.length, (bits.reverse.getD i false).toNat * 2 ^ i := by
  induction bits using List.reverseRecOn with
  | nil => rfl
  | append_singleton bits b ih =>
    rw [fromBits_append_singleton, ih, List.length_append, List.length_singleton, Finset.sum_range_succ',
      List.reverse_append, Finset.mul_sum]
    simp [pow_succ', Nat.mul_left_comm]

end Sys2Proof

/-! The statements about the encoding (spec/30_encoding.md): the fields of a word (R48), the opcode map (R50) and the bit codec
(R54, R55). -/

namespace Sys2Proof

/-- Settles O4: the value of each field by division, and a word as the join of its fields. -/
theorem wordSplitsIntoOpcodeAndOperands : Obligations.WordSplitsIntoOpcodeAndOperands := fun w =>
  ⟨wordFields_op_toNat w, wordFields_a_toNat w, wordFields_b_toNat w, toNat_eq_wordFields w, encodeFields_wordFields w⟩

/-- Settles O2: each clause is `and_opcodeMask_eq_iff_decode` at one opcode. -/
theorem opcodeMapDecidesEveryWord : Obligations.OpcodeMapDecidesEveryWord := by
  intro w
  have decided := and_opcodeMask_eq_iff_decode w
  exact ⟨decided 0, decided 1, decided 2, decided 3, decided 4, decided 5, decided 6, decided 7⟩

/-- Settles O5: the round-trip law, and a 4-bit value is its own reduction. -/
theorem bitCodecRoundTripReducesModuloWidth : Obligations.BitCodecRoundTripReducesModuloWidth := by
  refine ⟨fun v w _ => fromBits_toBits v w, fun v => ?_⟩
  have reduced := fromBits_toBits v.toNat 4
  have width : v.toNat < 16 := v.isLt
  omega

/-- Settles O6: the bit at each place of `toBits`, and the sum that `fromBits` is. -/
theorem bitCodecIsMostSignificantBitFirst : Obligations.BitCodecIsMostSignificantBitFirst := by
  refine ⟨fun v w j h => ⟨toBits_length v w, ?_⟩, fromBits_eq_sum⟩
  rw [toBits_getElem? v h, Nat.testBit_eq_decide_div_mod_eq]

end Sys2Proof

/-! SUPPORT. What the statements about single instructions share: the opcode bits of a word (spec/30_encoding.md
R50) and the whole effect of a cycle that writes a register (spec/10_state.md R31). -/

namespace Sys2Proof

/-- Under the mask 0x700 the word of a triple is the word of its opcode with both operands zero, the match value of R50. -/
theorem encodeFields_and_opcodeMask (op : Opcode) (a b : Operand) :
    encodeFields ⟨op, a, b⟩ &&& 0x700#11 = encodeFields ⟨op, 0, 0⟩ := by
  rw [eq_encodeFields_iff, wordFields_and_opcodeMask, wordFields_encodeFields]

end Sys2Proof

namespace Sys2Proof.Machine

open Sys2Proof.Safety

/-- An instruction that writes a register does not jump (R31): JMP_IF_ZERO alone writes none. -/
theorem pcAfter_eq_add_one_of_registerWritten {i : Instr} {dst : RegAddr} (hw : registerWritten i = some dst) (s : State) :
    pcAfter i s = s.pc + 1 := by
  cases i with
  | jmpIfZero => cases hw
  | _ => rfl

/-- The cycle of an instruction that writes a register: its value in the destination, every other register kept, pc
incremented, and the rest of the state kept (R31, R64, R73, R75). -/
theorem exec_of_registerWritten {i : Instr} {dst : RegAddr} (hw : registerWritten i = some dst) (s : State) :
    ∃ t, exec i s = .next t ∧ t.readReg dst = valueWritten i s ∧ (∀ r, r ≠ dst → t.readReg r = s.readReg r) ∧
      t.pc.toNat = (s.pc.toNat + 1) % 16 ∧ KeepsAllButRegistersAndPc s t := by
  refine ⟨s.afterCycle i, exec_eq_afterCycle i s, s.afterCycle_readReg_written hw, fun r hr => ?_, ?_,
    keepsAllButRegistersAndPc_afterCycle s i⟩
  · have notWritten : registerWritten i ≠ some r := fun h => hr (Option.some.inj (h.symm.trans hw))
    exact s.afterCycle_readReg_other notWritten
  · rw [State.afterCycle_pc, pcAfter_eq_add_one_of_registerWritten hw]
    exact BitVec.toNat_add s.pc 1

end Sys2Proof.Machine

/-! SUPPORT. The ALU's results (spec/40_alu.md) as numbers or bit by bit. -/

namespace Sys2Proof.Machine

theorem aluAdd_toNat (x y : Nibble) : (aluAdd x y).toNat = (x.toNat + y.toNat) % 16 := BitVec.toNat_add x y

/-- The difference is taken in the integers and then reduced, so that a borrow wraps (R66). -/
theorem aluSub_toNat (x y : Nibble) : ((aluSub x y).toNat : Int) = (x.toNat - y.toNat : Int) % 16 := by
  have wrapped : (aluSub x y).toNat = (16 - y.toNat + x.toNat) % 16 := BitVec.toNat_sub x y
  have width : y.toNat < 16 := y.isLt
  omega

theorem aluAnd_getLsbD (x y : Nibble) (k : Nat) : (aluAnd x y).getLsbD k = (x.getLsbD k && y.getLsbD k) :=
  BitVec.getLsbD_and

theorem aluOr_getLsbD (x y : Nibble) (k : Nat) : (aluOr x y).getLsbD k = (x.getLsbD k || y.getLsbD k) :=
  BitVec.getLsbD_or

/-- Four bits complemented are the distance to 15 (R69). -/
theorem aluNot_toNat (x : Nibble) : (aluNot x).toNat = 15 - x.toNat := BitVec.toNat_not

end Sys2Proof.Machine

/-! The statements about the ALU instructions (spec/40_alu.md R65 to R69). Each puts together the instruction's word, its cycle as
an instruction that writes one register, and the ALU's result in that register. -/

namespace Sys2Proof.Machine

/-- Settles O8: the cycle leaves `aluAdd` of the operands in register 0, the sum modulo 16. -/
theorem addWritesWrappedSumToRegisterZero : Obligations.AddWritesWrappedSumToRegisterZero := by
  intro a b s
  obtain ⟨t, next, value, frame⟩ := exec_of_registerWritten (i := .add a b) rfl s
  exact ⟨rfl, encodeFields_and_opcodeMask 0 a b, t, next, value ▸ aluAdd_toNat _ _, frame⟩

/-- Settles O9: the cycle leaves `aluSub` of the operands in register 0, the integer difference modulo 16. -/
theorem subWritesWrappedDifferenceToRegisterZero : Obligations.SubWritesWrappedDifferenceToRegisterZero := by
  intro a b s
  obtain ⟨t, next, value, frame⟩ := exec_of_registerWritten (i := .sub a b) rfl s
  exact ⟨rfl, encodeFields_and_opcodeMask 1 a b, t, next, value ▸ aluSub_toNat _ _, frame⟩

/-- Settles O10: the cycle leaves `aluAnd` of the operands in register 0, their conjunction at each bit. -/
theorem andWritesBitwiseAndToRegisterZero : Obligations.AndWritesBitwiseAndToRegisterZero := by
  intro a b s
  obtain ⟨t, next, value, frame⟩ := exec_of_registerWritten (i := .and a b) rfl s
  exact ⟨rfl, encodeFields_and_opcodeMask 5 a b, t, next, value ▸ aluAnd_getLsbD _ _, frame⟩

/-- Settles O11: the cycle leaves `aluOr` of the operands in register 0, their disjunction at each bit. -/
theorem orWritesBitwiseOrToRegisterZero : Obligations.OrWritesBitwiseOrToRegisterZero := by
  intro a b s
  obtain ⟨t, next, value, frame⟩ := exec_of_registerWritten (i := .or a b) rfl s
  exact ⟨rfl, encodeFields_and_opcodeMask 6 a b, t, next, value ▸ aluOr_getLsbD _ _, frame⟩

/-- Settles O12: the cycle leaves `aluNot` of the source in the destination, also where the two are one register. -/
theorem notWritesFourBitComplementToOperandB : Obligations.NotWritesFourBitComplementToOperandB := by
  intro src dst s
  obtain ⟨t, next, value, frame⟩ := exec_of_registerWritten (i := .not src dst) rfl s
  exact ⟨rfl, encodeFields_and_opcodeMask 7 src dst, t, next, value ▸ aluNot_toNat _, frame⟩

end Sys2Proof.Machine

/-! The statements about the move instructions (spec/41_move.md R71, R72): the instruction's word, and its cycle as an instruction
that writes one register. -/

namespace Sys2Proof.Machine

/-- Settles O13: the destination holds the copy; the source is either that register, or one of those the cycle keeps. -/
theorem movCopiesOperandAIntoOperandB : Obligations.MovCopiesOperandAIntoOperandB := by
  intro src dst s
  obtain ⟨t, next, copied, others, frame⟩ := exec_of_registerWritten (i := .mov src dst) rfl s
  have source : t.readReg src = s.readReg src := by
    obtain rfl | distinct := eq_or_ne src dst
    · exact copied
    · exact others src distinct
  exact ⟨rfl, encodeFields_and_opcodeMask 2 src dst, t, next, copied, source, others, frame⟩

/-- Settles O14: the value the cycle leaves in the destination is the literal field itself. -/
theorem immdWritesItsLiteralToOperandA : Obligations.ImmdWritesItsLiteralToOperandA := by
  intro dst value s
  obtain ⟨t, next, written, frame⟩ := exec_of_registerWritten (i := .immd dst value) rfl s
  exact ⟨rfl, encodeFields_and_opcodeMask 3 dst value, t, next, written, frame⟩

end Sys2Proof.Machine

/-! SUPPORT. Where JMP_IF_ZERO sends pc, and what leaves pc to the increment (spec/42_control.md R74, R75). -/

namespace Sys2Proof.Machine

open Sys2Proof.Safety

/-- The taken jump goes to its absolute target, with no increment in the same cycle (R74). -/
theorem pcAfter_jmpIfZero_of_zero {s : State} {test : RegAddr} (zero : s.readReg test = 0#4) (target : PAddr) :
    pcAfter (.jmpIfZero target test) s = target := if_pos zero

/-- Unless the instruction is a JMP_IF_ZERO whose register is zero, pc advances by one (R75). -/
theorem pcAfter_eq_add_one_of_not_taken {i : Instr} {s : State}
    (notTaken : ∀ target test, i = .jmpIfZero target test → s.readReg test ≠ 0#4) : pcAfter i s = s.pc + 1 := by
  cases i with
  | jmpIfZero target test => exact if_neg (notTaken target test rfl)
  | _ => rfl

/-- The cycle of an instruction that takes no jump increments pc exactly once, modulo 16 (R75). -/
theorem State.afterCycle_pc_toNat_of_not_taken {i : Instr} {s : State}
    (notTaken : ∀ target test, i = .jmpIfZero target test → s.readReg test ≠ 0#4) :
    (s.afterCycle i).pc.toNat = (s.pc.toNat + 1) % 16 := by
  rw [State.afterCycle_pc, pcAfter_eq_add_one_of_not_taken notTaken]
  exact BitVec.toNat_add s.pc 1

end Sys2Proof.Machine

/-! The statements about control transfer (spec/42_control.md R74, R75): JMP_IF_ZERO's own cycle, and that its taken jump is the
only cycle without the increment. -/

namespace Sys2Proof.Machine

/-- Settles O15: JMP_IF_ZERO has no destination, so its cycle keeps every register, and where pc goes turns on the one tested. -/
theorem jmpIfZeroJumpsExactlyWhenTheRegisterIsZero : Obligations.JmpIfZeroJumpsExactlyWhenTheRegisterIsZero := by
  intro target test s
  refine ⟨rfl, encodeFields_and_opcodeMask 4 target test, s.afterCycle (.jmpIfZero target test), exec_eq_afterCycle _ s,
    fun zero => pcAfter_jmpIfZero_of_zero zero target, fun nonzero => ?_,
    fun _ => s.afterCycle_readReg_other nofun, keepsAllButRegistersAndPc_afterCycle s _⟩
  apply State.afterCycle_pc_toNat_of_not_taken
  rintro _ _ ⟨⟩
  exact nonzero

/-- Settles O17: either the instruction is a JMP_IF_ZERO whose register is zero, which goes to its target, or it is not, and pc is
incremented. -/
theorem onlyATakenJumpSuppressesTheIncrement : Obligations.OnlyATakenJumpSuppressesTheIncrement := by
  intro i s
  refine ⟨s.afterCycle i, exec_eq_afterCycle i s, ?_⟩
  by_cases taken : ∃ target test, i = .jmpIfZero target test ∧ s.readReg test = 0#4
  · obtain ⟨target, test, rfl, zero⟩ := taken
    exact .inl ⟨target, test, rfl, zero, pcAfter_jmpIfZero_of_zero zero target⟩
  · have notTaken : ∀ target test, i = .jmpIfZero target test → s.readReg test ≠ 0#4 :=
      fun target test isJump zero => taken ⟨target, test, isJump, zero⟩
    exact .inr ⟨notTaken, State.afterCycle_pc_toNat_of_not_taken notTaken⟩

end Sys2Proof.Machine

/-! SUPPORT. What each event makes a step do, and what every step does to the events to come and to the response
(spec/45_controller_and_loader.md R80, R82, R83, R85 to R89, R97). -/

namespace Sys2Proof.Machine

open Sys2Proof.Safety

/-- A request the mode does not accept is reported, and that is all the step does (R83). -/
theorem step_of_refused {s : State} {q : Request} (event : s.nextEvent = .request q) (rejected : accepts q s.mode = false) :
    step s = .next (s.dropEvent.respond .outOfSequence) := by
  simp [step, stepEvent, event, rejected, reportOutOfSequence]

/-- A request the mode accepts is performed on the state whose event has been taken (R96). -/
theorem step_of_accepted {s : State} {q : Request} (event : s.nextEvent = .request q) (accepted : accepts q s.mode = true) :
    step s = perform q s.dropEvent := by
  simp [step, stepEvent, event, accepted]

/-- A Tick in Running mode is the cycle of the instruction fetched at pc, answered None (R89). -/
theorem step_of_fetched {s : State} (event : s.nextEvent = .tick) (mode : s.mode = .running) :
    step s = mapNext (fun t => t.respond .none) (exec s.fetch s.dropEvent) := by
  have fetched : s.dropEvent.fetch = s.fetch := rfl
  simp [step, stepEvent, event, performTick, mode, fetched]

/-- An Exec in Interactive mode is the cycle of the submitted instruction, answered Ok (R87). -/
theorem step_of_submitted {s : State} {f : Fields} (event : s.nextEvent = .request (.exec f)) (mode : s.mode = .interactive) :
    step s = mapNext (fun t => t.respond .ok) (exec (instrOf f) s.dropEvent) :=
  step_of_accepted event (by rw [mode]; rfl)

/-- Every step takes exactly one event, and no effect of it adds one (R80). -/
theorem StepsTo.inputs_eq_tail {s t : State} (h : StepsTo s t) : t.inputs = s.inputs.tail := by
  cases h with
  | executed f => exact (keepsAllButRegistersAndPc_afterCycle s.dropEvent (instrOf f)).inputs
  | fetched => exact (keepsAllButRegistersAndPc_afterCycle s.dropEvent s.fetch).inputs
  | _ => rfl

/-- Taking an event and answering it are of the interface, and leave the spec's own state alone. -/
theorem sameCore_dropEvent_respond (s : State) (v : Response) : SameCore s (s.dropEvent.respond v) :=
  ⟨fun _ => rfl, rfl, fun _ => rfl, rfl, rfl⟩

/-- The end of capture where pc is 0 already, as the increment leaves it at address 15: the mode alone changes (R86). -/
theorem leaveCapture_of_pc_zero {s : State} (zero : s.pc = 0#4) : leaveCapture s = s.setMode .interactive := by
  simp [leaveCapture, State.setPc, ← zero, State.setMode]

/-- A Capture at any address: the word goes to the address in pc, pc takes its increment, which at address 15 is 0, the address is
answered, and the mode changes at address 15 only (R85, R86). -/
theorem performCapture_eq (f : Fields) (s : State) :
    performCapture f s =
      (((s.writeWord s.pc (encodeFields f)).incPc).respond (.captured s.pc)).setMode
        (if s.pc = 15#4 then .interactive else s.mode) := by
  by_cases top : s.pc = 15#4
  · have wrapped : s.pc + 1 = 0#4 := by rw [top]; rfl
    rw [performCapture_last f top, if_pos top, leaveCapture_of_pc_zero wrapped]
  · rw [performCapture_below f top, if_neg top]
    rfl

/-- The response of a performed request: the address for a Capture, Ok for any other (R97). -/
theorem perform_resp {q : Request} {s t : State} (h : perform q s = .next t) :
    ((∃ f, q = .capture f) ∧ t.resp = .captured s.pc) ∨ ((∀ f, q ≠ .capture f) ∧ t.resp = .ok) := by
  cases q with
  | capture f =>
    obtain rfl := Host.Outcome.next.inj h
    exact .inl ⟨⟨f, rfl⟩, by rw [performCapture_eq]; rfl⟩
  | exec f =>
    obtain ⟨u, -, rfl⟩ := mapNext_eq_next h
    exact .inr ⟨nofun, rfl⟩
  | _ =>
    obtain rfl := Host.Outcome.next.inj h
    exact .inr ⟨nofun, rfl⟩

/-- No performed request is answered OutOfSequence. -/
theorem perform_resp_ne_outOfSequence {q : Request} {s t : State} (h : perform q s = .next t) : t.resp ≠ .outOfSequence := by
  obtain ⟨-, answer⟩ | ⟨-, answer⟩ := perform_resp h <;> simp [answer]

/-- A cycle does not read program memory: what it holds comes out as it went in, and nothing else depends on it (R73, R87). -/
theorem State.afterCycle_withPmem (s : State) (p : Memory) (i : Instr) :
    ({ s with pmem := p } : State).afterCycle i = { s.afterCycle i with pmem := p } := by
  have value : valueWritten i { s with pmem := p } = valueWritten i s := valueWritten_congr fun _ _ => rfl
  have target : pcAfter i { s with pmem := p } = pcAfter i s := pcAfter_congr (fun _ _ => rfl) rfl
  simp only [State.afterCycle, value, target]
  cases registerWritten i <;> rfl

end Sys2Proof.Machine

/-! The statements about the controller and the loader (spec/45_controller_and_loader.md): refused requests (R83, R103), the two
ways to run an instruction (R87, R89), Capture (R85) and End (R92). -/

namespace Sys2Proof.Machine

/-- Settles O32: a refused request is only reported, and a performed one answers Ok or an address. -/
theorem refusedRequestsReportAndChangeNothing : Obligations.RefusedRequestsReportAndChangeNothing := by
  intro s q event
  cases accepted : accepts q s.mode with
  | false =>
    exact ⟨_, step_of_refused event accepted, rfl, iff_of_true rfl rfl, fun _ => sameCore_dropEvent_respond s _⟩
  | true =>
    obtain ⟨t, next, leads⟩ := perform_stepsTo event accepted
    exact ⟨t, (step_of_accepted event accepted).trans next, leads.inputs_eq_tail,
      iff_of_false (perform_resp_ne_outOfSequence next) nofun, nofun⟩

/-- Settles O22: the step is the fetched instruction's cycle, and a cycle is the dispatch and then the advance of pc. -/
theorem runningTickRunsTheFetchedInstruction : Obligations.RunningTickRunsTheFetchedInstruction := by
  rintro s _ mode event rfl -
  exact ⟨step_of_fetched event mode, exec_eq_advance _ _⟩

/-- Settles O23: the step is the submitted instruction's cycle, which does not depend on program memory and leaves it as it is. -/
theorem interactiveExecRunsTheSubmittedInstruction : Obligations.InteractiveExecRunsTheSubmittedInstruction := by
  intro s f mode event
  refine ⟨step_of_submitted event mode, exec_eq_advance _ _, fun p => ?_⟩
  have commutes := s.dropEvent.afterCycle_withPmem p (instrOf f)
  calc step { s with pmem := p }
    _ = mapNext (fun t => t.respond .ok) (exec (instrOf f) { s.dropEvent with pmem := p }) :=
      step_of_submitted (s := { s with pmem := p }) event mode
    _ = mapNext (fun t => { t with pmem := p }) (mapNext (fun t => t.respond .ok) (exec (instrOf f) s.dropEvent)) := by
      rw [exec_eq_afterCycle, exec_eq_afterCycle, commutes]
      rfl
    _ = mapNext (fun t => { t with pmem := p }) (step s) := by rw [step_of_submitted event mode]

/-- Settles O25: the write at pc, the increment and the mode of `performCapture_eq`, each read off it. -/
theorem captureWritesAtPcAndAdvances : Obligations.CaptureWritesAtPcAndAdvances := by
  intro s f mode event
  have next : step s = .next (performCapture f s.dropEvent) := step_of_accepted event (by rw [mode]; rfl)
  rw [performCapture_eq] at next
  have word (a : PAddr) := s.dropEvent.readWord_writeWord s.pc a (encodeFields f)
  exact ⟨_, next, (word s.pc).trans (if_pos rfl), fun a other => (word a).trans (if_neg other), rfl, BitVec.toNat_add s.pc 1,
    fun top => if_pos top, fun below => (if_neg below).trans mode, rfl, rfl, fun _ => rfl⟩

/-- Settles O26: End is accepted in Programming mode, and it writes the mode, pc and the response only. -/
theorem endLeavesProgrammingAndKeepsWords : Obligations.EndLeavesProgrammingAndKeepsWords := by
  intro s mode event
  have next : step s = .next (performEnd s.dropEvent) := step_of_accepted event (by rw [mode]; rfl)
  exact ⟨_, next, rfl, rfl, rfl, rfl, rfl, fun _ => rfl, fun _ => rfl⟩

end Sys2Proof.Machine

/-! SUPPORT. The serialized form field by field (spec/30_encoding.md R54, R59): the bits of a value split wherever its width
does. -/

namespace Sys2Proof

/-- The bits of a value at a sum of two widths: the high part's bits, then those of the value itself at the low width (R54). -/
theorem toBits_add (v : Int) (m n : Nat) : toBits v (m + n) = toBits (v / 2 ^ n) m ++ toBits v n := by
  induction n generalizing v with
  | zero => simp [toBits]
  | succ n ih =>
    have halved : v / 2 / 2 ^ n = v / 2 ^ (n + 1) := by rw [Int.ediv_ediv_of_nonneg (by decide), pow_succ']
    rw [← Nat.add_assoc, toBits_succ, ih, halved, toBits_succ v n, List.append_assoc]

/-- The bits at a width are those of the value reduced to it (R54). -/
theorem toBits_emod (v : Int) (w : Nat) : toBits (v % 2 ^ w) w = toBits v w := by
  simp only [toBits, Int.emod_emod]

/-- The serialized form of a word is its opcode field, then A, then B (R48, R59). -/
theorem serialize_eq_wordFields (w : Word) :
    serialize w = toBits (wordFields w).op.toNat 3 ++ toBits (wordFields w).a.toNat 4 ++ toBits (wordFields w).b.toNat 4 := by
  have operandA : (w.toNat : Int) / 2 ^ 4 % 2 ^ 4 = ((wordFields w).a.toNat : Int) := by rw [wordFields_a_toNat]; rfl
  have operandB : (w.toNat : Int) % 2 ^ 4 = ((wordFields w).b.toNat : Int) := by rw [wordFields_b_toNat]; rfl
  have opcode : (w.toNat : Int) / 2 ^ (4 + 4) = ((wordFields w).op.toNat : Int) := by rw [wordFields_op_toNat]; rfl
  calc toBits w.toNat (3 + (4 + 4))
    _ = toBits (w.toNat / 2 ^ (4 + 4)) 3 ++ (toBits (w.toNat / 2 ^ 4) 4 ++ toBits w.toNat 4) := by
      rw [toBits_add, toBits_add]
    _ = toBits (wordFields w).op.toNat 3 ++ toBits (wordFields w).a.toNat 4 ++ toBits (wordFields w).b.toNat 4 := by
      rw [opcode, ← toBits_emod (w.toNat / 2 ^ 4), operandA, ← toBits_emod w.toNat, operandB, List.append_assoc]

end Sys2Proof

/-! The statements about instructions as words (spec/30_encoding.md): the round trip (R53), the serialized form (R59) and the words
written out in spec/95_test_vectors.md. -/

namespace Sys2Proof

/-- Settles O1: a word and its triple determine each other, and so do a triple and its instruction; the fields of a word built from
numbers are the numbers reduced. -/
theorem decodeAndEncodeAreInverse : Obligations.DecodeAndEncodeAreInverse := by
  refine ⟨fun i => (decode_eq_iff _ _).mpr (wordFields_encodeFields _), fun w => ?_, fun op a b => ?_⟩
  · rw [encode, decode, fields_instrOf, encodeFields_wordFields]
  · have fields : wordFields (encodeNat op a b) = _ := wordFields_encodeFields _
    rw [fields]
    exact ⟨encodeFields_toNat _, rfl, rfl, rfl⟩

/-- Settles O7: the word's fields are the instruction's own. -/
theorem serializedFormIsOpcodeThenAThenB : Obligations.SerializedFormIsOpcodeThenAThenB := by
  refine ⟨fun i => ?_, rfl, by decide⟩
  rw [serialize_eq_wordFields, encode, wordFields_encodeFields]

/-- Settles O3: eight closed evaluations of the decoder. -/
theorem writtenWordsDecodeToTheirInstructions : Obligations.WrittenWordsDecodeToTheirInstructions :=
  ⟨rfl, rfl, rfl, rfl, rfl, rfl, rfl, rfl⟩

end Sys2Proof

/-! SUPPORT. A canonical memory is determined by its words (spec/20_memory.md R34; log entry 4). -/

namespace Sys2Proof.Machine

@[simp] theorem Memory.read_cons_same (k : Nat) (v : Word) (m : Memory) : Memory.read ((k, v) :: m) k = v := by
  simp [Memory.read]

theorem Memory.read_cons_other {k a : Nat} (v : Word) (m : Memory) (h : a ≠ k) :
    Memory.read ((k, v) :: m) a = Memory.read m a := by
  simp [Memory.read, h]

theorem Memory.wfFrom_cons {lo k : Nat} {v : Word} {m : Memory} :
    Memory.wfFrom lo ((k, v) :: m) = true ↔ lo ≤ k ∧ k < 16 ∧ v ≠ 0#11 ∧ Memory.wfFrom (k + 1) m = true := by
  simp [Memory.wfFrom, and_assoc]

/-- A canonical memory lists no zero word (log entry 4). -/
theorem Memory.read_head_ne_zero {lo k : Nat} {v : Word} {m : Memory} (h : Memory.wfFrom lo ((k, v) :: m) = true) :
    Memory.read ((k, v) :: m) k ≠ 0#11 := by
  obtain ⟨-, -, nonzero, -⟩ := Memory.wfFrom_cons.mp h
  rwa [Memory.read_cons_same]

/-- The first address a canonical memory lists is not below the first that another with the same words may list. -/
theorem Memory.le_head_of_read_eq {lo hi k : Nat} {v : Word} {m n : Memory} (hm : Memory.wfFrom lo ((k, v) :: m) = true)
    (hn : Memory.wfFrom hi n = true) (same : Memory.read ((k, v) :: m) k = Memory.read n k) : hi ≤ k := by
  by_contra below
  exact Memory.read_head_ne_zero hm (same.trans (Memory.read_below hn (by omega)))

/-- The head of a canonical memory is its first word that is not zero, so memories with equal words agree entry by entry. -/
theorem Memory.eq_of_wfFrom_of_read_eq {lo : Nat} {m n : Memory} (hm : Memory.wfFrom lo m = true)
    (hn : Memory.wfFrom lo n = true) (same : ∀ a, Memory.read m a = Memory.read n a) : m = n := by
  induction m generalizing lo n with
  | nil =>
    cases n with
    | nil => rfl
    | cons c n => exact absurd (same c.1).symm (Memory.read_head_ne_zero hn)
  | cons c m ih =>
    cases n with
    | nil => exact absurd (same c.1) (Memory.read_head_ne_zero hm)
    | cons d n =>
      obtain ⟨k, v⟩ := c
      obtain ⟨k', v'⟩ := d
      obtain ⟨-, bound, nonzero, tail⟩ := Memory.wfFrom_cons.mp hm
      obtain ⟨-, bound', nonzero', tail'⟩ := Memory.wfFrom_cons.mp hn
      have below := Memory.le_head_of_read_eq hm (Memory.wfFrom_cons.mpr ⟨le_rfl, bound', nonzero', tail'⟩) (same k)
      have above := Memory.le_head_of_read_eq hn (Memory.wfFrom_cons.mpr ⟨le_rfl, bound, nonzero, tail⟩) (same k').symm
      obtain rfl : k = k' := le_antisymm above below
      obtain rfl : v = v' := by simpa using same k
      have rest (a : Nat) : Memory.read m a = Memory.read n a := by
        by_cases here : a = k
        · rw [Memory.read_below tail (by omega), Memory.read_below tail' (by omega)]
        · rw [← Memory.read_cons_other v m here, same a, Memory.read_cons_other v n here]
      rw [ih tail tail' rest]

end Sys2Proof.Machine

/-! SUPPORT. What a cycle leaves alone, field by field, and that it does not depend on mode, rate or program memory
(spec/10_state.md R25, R31, R73). -/

namespace Sys2Proof.Machine

open Sys2Proof.Safety

/-- Everything a cycle writes: the register file and pc, and nothing else (R31). -/
theorem State.afterCycle_eq (s : State) (i : Instr) :
    s.afterCycle i = { s with x := (s.writeDest (registerWritten i) (valueWritten i s)).x, pc := pcAfter i s } := by
  unfold State.afterCycle
  cases registerWritten i <;> rfl

@[simp] theorem State.afterCycle_pmem (s : State) (i : Instr) : (s.afterCycle i).pmem = s.pmem := by
  rw [State.afterCycle_eq]

@[simp] theorem State.afterCycle_mode (s : State) (i : Instr) : (s.afterCycle i).mode = s.mode := by
  rw [State.afterCycle_eq]

@[simp] theorem State.afterCycle_rate (s : State) (i : Instr) : (s.afterCycle i).rate = s.rate := by
  rw [State.afterCycle_eq]

@[simp] theorem State.afterCycle_inputs (s : State) (i : Instr) : (s.afterCycle i).inputs = s.inputs := by
  rw [State.afterCycle_eq]

/-- A register write depends on the register file only: what another state with the same file writes is the same file. -/
theorem State.writeDest_x_congr {s t : State} (h : t.x = s.x) (dst : Option RegAddr) (v : Nibble) :
    (t.writeDest dst v).x = (s.writeDest dst v).x := by
  cases dst with
  | none => exact h
  | some r => simp [State.writeDest, h]

/-- A cycle reads neither mode nor rate nor program memory: it comes to the same to change them before it or after (R25, R73). -/
theorem State.afterCycle_withModeRatePmem (s : State) (m : Mode) (r : Rate) (p : Memory) (i : Instr) :
    ({ s with mode := m, rate := r, pmem := p } : State).afterCycle i =
      { s.afterCycle i with mode := m, rate := r, pmem := p } := by
  have value : valueWritten i { s with mode := m, rate := r, pmem := p } = valueWritten i s :=
    valueWritten_congr fun _ _ => rfl
  have target : pcAfter i { s with mode := m, rate := r, pmem := p } = pcAfter i s := pcAfter_congr (fun _ _ => rfl) rfl
  have registers := State.writeDest_x_congr (s := s) (t := { s with mode := m, rate := r, pmem := p }) rfl
  simp only [State.afterCycle_eq, value, target, registers]

end Sys2Proof.Machine

/-! The statements about program memory's canonical form (spec/20_memory.md R34), and about what instructions ignore (R25, R64,
R73, R108) and that every word executes (R56). -/

namespace Sys2Proof.Machine

/-- Settles O41, by the cases of a step: a Capture's write keeps the canonical form, Reset's memory has it, and no other step
writes program memory. -/
theorem everyStepKeepsProgramMemoryCanonical : Obligations.EveryStepKeepsProgramMemoryCanonical := by
  intro s t canonical hstep
  cases stepsTo_of_step hstep with
  | refused | began | ended | started | stopped | idle => exact canonical
  | executed | fetched => simpa [Safety.Inv] using canonical
  | captured f | capturedLast f => exact State.writeWord_wf (s := s.dropEvent) s.pc (encodeFields f) canonical
  | reset => exact Memory.wf_empty

/-- Settles O43: the sixteen words are all a canonical memory can list, and they determine it entry by entry. -/
theorem canonicalMemoriesAreEqualWhenTheirWordsAre : Obligations.CanonicalMemoriesAreEqualWhenTheirWordsAre := by
  intro m n hm hn same
  refine Memory.eq_of_wfFrom_of_read_eq hm hn fun a => ?_
  by_cases inside : a < 16
  · exact same (BitVec.ofNatLT a inside)
  · rw [Memory.read_above hm (by omega), Memory.read_above hn (by omega)]

/-- Settles O42: reset lists no word. -/
theorem resetStateHasTheInvariant : Obligations.ResetStateHasTheInvariant :=
  ⟨Memory.wf_empty, State.reset_readWord⟩

/-- Settles O19: the cycle commutes with the change of all three. -/
theorem instructionsIgnoreModeRateAndProgramMemory : Obligations.InstructionsIgnoreModeRateAndProgramMemory := by
  intro i s m r p
  rw [exec_eq_afterCycle, exec_eq_afterCycle, State.afterCycle_withModeRatePmem, mapNext_next]

/-- Settles O20: every instruction's cycle goes on, so every decoded word's does. -/
theorem everyWordExecutesInEveryState : Obligations.EveryWordExecutesInEveryState := fun w s =>
  ⟨_, exec_eq_afterCycle (decode w) s⟩

end Sys2Proof.Machine

/-! SUPPORT. More of what each event makes a step do (spec/45_controller_and_loader.md R87, R89, R90, R93, R97), the cycles behind
the pseudo-instructions (spec/30_encoding.md R62), and what the configuration without register 15 admits
(spec/92_eei_decisions.md D18). -/

namespace Sys2Proof.Machine

open Sys2Proof.Safety

/-- An outcome that goes on has one next state. -/
theorem eq_of_eq_next {r : Result} {t u : State} (h : r = .next t) (h' : r = .next u) : t = u :=
  Host.Outcome.next.inj (h.symm.trans h')

/-- A Tick in Running mode is a cycle of the word at pc, answered None (R89). -/
theorem performTick_running {s : State} (mode : s.mode = .running) :
    performTick s = .next ((s.afterCycle s.fetch).respond .none) := by
  simp [performTick, mode, exec_eq_afterCycle]

/-- A Tick in another mode is only answered None (R90). -/
theorem performTick_idle {s : State} (mode : s.mode ≠ .running) : performTick s = .next (s.respond .none) := by
  cases h : s.mode with
  | running => exact absurd h mode
  | interactive | programming => simp [performTick, h]

/-- A Tick is answered None, in every mode (R97). -/
theorem performTick_resp {s t : State} (h : performTick s = .next t) : t.resp = .none := by
  by_cases mode : s.mode = .running
  · obtain rfl := eq_of_eq_next (performTick_running mode) h
    rfl
  · obtain rfl := eq_of_eq_next (performTick_idle mode) h
    rfl

theorem step_of_tick {s : State} (event : s.nextEvent = .tick) : step s = performTick s.dropEvent := by
  rw [step, event, stepEvent]

/-- A step that runs an instruction, fetched or submitted, is that instruction's cycle and a response (R87, R89). -/
theorem step_of_runs {s : State} {i : Instr} (h : Runs s i) :
    ∃ v, step s = .next ((s.dropEvent.afterCycle i).respond v) := by
  cases h with
  | fetched event mode => exact ⟨.none, by rw [step_of_fetched event mode, exec_eq_afterCycle, mapNext_next]; rfl⟩
  | submitted f event mode => exact ⟨.ok, by rw [step_of_submitted event mode, exec_eq_afterCycle, mapNext_next]⟩

/-- The event taken has no part in the value written. -/
@[simp] theorem valueWritten_dropEvent (i : Instr) (s : State) : valueWritten i s.dropEvent = valueWritten i s :=
  valueWritten_congr fun _ _ => rfl

/-- A register that a cycle changes is the destination of its instruction (R31). -/
theorem registerWritten_of_afterCycle_ne {s : State} {i : Instr} {r : RegAddr}
    (changed : (s.afterCycle i).readReg r ≠ s.readReg r) : registerWritten i = some r :=
  not_imp_comm.mp s.afterCycle_readReg_other changed

/-- JMP_IF_ZERO writes no register. -/
@[simp] theorem State.afterCycle_jmpIfZero_readReg (s : State) (target : PAddr) (test r : RegAddr) :
    (s.afterCycle (.jmpIfZero target test)).readReg r = s.readReg r := s.afterCycle_readReg_other nofun

/-- The cycle of JMP_IF_ZERO: pc goes where the test says, and nothing else changes (R74). -/
theorem exec_jmpIfZero (target : PAddr) (test : RegAddr) (s : State) :
    ∃ t, exec (.jmpIfZero target test) s = .next t ∧ t.pc = (if s.readReg test = 0#4 then target else s.pc + 1) ∧
      (∀ r, t.readReg r = s.readReg r) ∧ KeepsAllButRegistersAndPc s t :=
  ⟨_, exec_eq_afterCycle _ s, rfl, s.afterCycle_jmpIfZero_readReg target test, keepsAllButRegistersAndPc_afterCycle s _⟩

/-- Copying a register onto itself changes no register, which is what makes MOV r0, r0 a NOP (R62). -/
theorem State.afterCycle_mov_self_readReg (s : State) (r q : RegAddr) :
    (s.afterCycle (.mov r r)).readReg q = s.readReg q := by
  by_cases same : q = r
  · subst same
    exact s.afterCycle_readReg_written rfl
  · exact s.afterCycle_readReg_other fun written => same (Option.some.inj written).symm

/-- Reset in any mode leaves nothing of the state before but the events to come (R93, R115; log entry 8). -/
theorem step_of_reset {s : State} (event : s.nextEvent = .request .reset) :
    step s = .next { State.reset with inputs := s.inputs.tail, resp := .ok } := step_of_accepted event rfl

/-- With register 15 reserved, the configuration lacks one of the registers named exactly where one of them is 15 (D18). -/
theorem all_r15Reserved_admits_iff (regs : List RegAddr) :
    regs.all Config.r15Reserved.admits = true ↔ 15#4 ∉ regs := by
  have admits_iff (r : RegAddr) : Config.r15Reserved.admits r = true ↔ r ≠ 15#4 := by
    simp [Config.admits, Config.r15Reserved]
  simp only [List.all_eq_true, admits_iff]
  exact ⟨fun all named => all _ named rfl, fun unnamed r named is15 => unnamed (is15 ▸ named)⟩

end Sys2Proof.Machine

/-! The statements about single requests and Ticks (spec/45_controller_and_loader.md R82 to R93, R97, R98;
spec/70_reset_and_hazards.md R112 to R115). -/

namespace Sys2Proof.Machine

/-- Settles O33: the table's cells, request by request. -/
theorem eachModeAcceptsItsTableRequests : Obligations.EachModeAcceptsItsTableRequests := by
  intro q m
  cases q <;> simp [accepts]

/-- Settles O24: Begin is accepted in Interactive mode, and it writes the mode, pc and the response only. -/
theorem beginEntersProgrammingAtAddressZero : Obligations.BeginEntersProgrammingAtAddressZero := by
  intro s mode event
  have next : step s = .next (performBegin s.dropEvent) := step_of_accepted event (by rw [mode]; rfl)
  exact ⟨_, next, rfl, rfl, rfl, rfl, rfl, fun _ => rfl, fun _ => rfl⟩

/-- Settles O27: Run is accepted in Interactive mode, and it writes the mode, pc, the rate and the response only. -/
theorem runEntersRunningAtAddressZero : Obligations.RunEntersRunningAtAddressZero := by
  intro s r mode event
  have next : step s = .next (performRun r s.dropEvent) := step_of_accepted event (by rw [mode]; rfl)
  exact ⟨_, next, rfl, rfl, rfl, rfl, rfl, fun _ => rfl, fun _ => rfl⟩

/-- Settles O28: Stop is accepted in Running mode, and it writes the mode and the response only. -/
theorem stopReturnsToInteractiveOnly : Obligations.StopReturnsToInteractiveOnly := by
  intro s mode event
  have next : step s = .next (performStop s.dropEvent) := step_of_accepted event (by rw [mode]; rfl)
  exact ⟨_, next, rfl, rfl, rfl, rfl, rfl, fun _ => rfl, fun _ => rfl⟩

/-- Settles O29: the step only takes the Tick and answers it. -/
theorem tickOutsideRunningChangesNothing : Obligations.TickOutsideRunningChangesNothing := by
  intro s mode event
  exact ⟨_, (step_of_tick event).trans (performTick_idle mode), sameCore_dropEvent_respond s _, rfl, rfl⟩

/-- Settles O30: the step leads to the reset state but for the interface's events and response. -/
theorem resetZeroesTheMachineFromEveryState : Obligations.ResetZeroesTheMachineFromEveryState := by
  intro s event
  exact ⟨_, step_of_reset event, State.reset_readReg, fun _ => rfl, rfl, rfl, rfl, rfl, rfl,
    fun _ => rfl, rfl, fun _ => rfl, rfl, rfl⟩

/-- Settles O31: what a Reset leads to names nothing of the state before but the events to come, so the second of two leads where
the only one does. -/
theorem resetIsIdempotentAndForgetsTheState : Obligations.ResetIsIdempotentAndForgetsTheState := by
  intro s u rest twice once
  have first : step s = .next { State.reset with inputs := .request .reset :: rest, resp := .ok } := by
    rw [step_of_reset (by rw [State.nextEvent, twice]; rfl), twice, List.tail_cons]
  have only : step u = .next { State.reset with inputs := rest, resp := .ok } := by
    rw [step_of_reset (by rw [State.nextEvent, once]; rfl), once, List.tail_cons]
  refine ⟨_, ?_, only⟩
  rw [run_succ first, run_succ (step_of_reset rfl)]
  rfl

/-- Settles O34: a Tick is answered None, a refused request OutOfSequence, and a performed one as `perform_resp` says. -/
theorem everyStepAnswersItsTableResponse : Obligations.EveryStepAnswersItsTableResponse := by
  intro s
  cases event : s.nextEvent with
  | tick =>
    obtain ⟨t, next, -⟩ := performTick_stepsTo event
    exact ⟨t, (step_of_tick event).trans next, fun _ => performTick_resp next, nofun⟩
  | request q =>
    cases accepted : accepts q s.mode with
    | false =>
      refine ⟨_, step_of_refused event accepted, nofun, ?_⟩
      rintro _ ⟨⟩
      simp [accepted]
    | true =>
      obtain ⟨t, next, -⟩ := perform_stepsTo event accepted
      refine ⟨t, (step_of_accepted event accepted).trans next, nofun, ?_⟩
      rintro _ ⟨⟩
      obtain ⟨capture, answer⟩ | ⟨other, answer⟩ := perform_resp next
      · exact ⟨by simp [accepted], fun _ _ => answer, fun _ none => absurd capture (by simpa using none)⟩
      · exact ⟨by simp [accepted], fun _ capture => absurd capture (by simpa using other), fun _ _ => answer⟩

/-- Settles O35, by the cases of a step: those that change the mode are the listed transitions. -/
theorem modeChangesOnlyByTableTransitions : Obligations.ModeChangesOnlyByTableTransitions := by
  intro s t hstep changed
  cases stepsTo_of_step hstep with
  | refused | captured | idle => exact absurd rfl changed
  | executed f => exact absurd (s.dropEvent.afterCycle_mode (instrOf f)) changed
  | fetched => exact absurd (s.dropEvent.afterCycle_mode s.fetch) changed
  | began event mode => exact .inl ⟨mode, rfl, event⟩
  | started r event mode => exact .inr (.inl ⟨mode, rfl, r, event⟩)
  | capturedLast f event mode last => exact .inr (.inr (.inl ⟨mode, rfl, last, f, event⟩))
  | ended event mode => exact .inr (.inr (.inr (.inl ⟨mode, rfl, event⟩)))
  | stopped event mode => exact .inr (.inr (.inr (.inr (.inl ⟨mode, rfl, event⟩))))
  | reset event => exact .inr (.inr (.inr (.inr (.inr ⟨rfl, event⟩))))

/-- Settles O38, by the cases of a step: only a cycle and Reset touch the register file, and a cycle only its destination. -/
theorem registersAreWrittenOnlyByInstructionsAndReset : Obligations.RegistersAreWrittenOnlyByInstructionsAndReset := by
  intro s t r hstep changed
  cases stepsTo_of_step hstep with
  | refused | began | captured | capturedLast | ended | started | stopped | idle => exact absurd rfl changed
  | executed f event mode =>
    exact .inr ⟨_, .submitted f event mode, registerWritten_of_afterCycle_ne (s := s.dropEvent) changed⟩
  | fetched event mode =>
    exact .inr ⟨_, .fetched event mode, registerWritten_of_afterCycle_ne (s := s.dropEvent) changed⟩
  | reset event => exact .inl ⟨event, State.reset_readReg r⟩

/-- Settles O40: every case of a step goes on. -/
theorem everyStepHasASuccessor : Obligations.EveryStepHasASuccessor := by
  intro s
  obtain ⟨t, next, -⟩ := step_stepsTo s
  exact ⟨t, next⟩

end Sys2Proof.Machine

/-! The statements about instructions under the open parameter (spec/92_eei_decisions.md D18) and about the pseudo-instructions
(spec/30_encoding.md R62, D9). -/

namespace Sys2Proof.Machine

/-- Settles O21: a cycle under the parameter runs as `exec` does unless the configuration lacks a register named. -/
theorem reservedRegister15FaultsExactlyWhereNamed : Obligations.ReservedRegister15FaultsExactlyWhereNamed := by
  intro i s
  have admitted := all_r15Reserved_admits_iff i.registerOperands
  refine ⟨fun named => ?_, fun unnamed => ?_, (exec_eq_execUnder_standard i s).symm⟩
  · rw [execUnder, runCycle, if_neg (by rw [admitted]; exact not_not_intro named)]
  · rw [execUnder, runCycle, if_pos (admitted.mpr unnamed), exec_eq_advance]

/-- Settles O16: NOP is a copy of register 0 onto itself, CLR the literal 0, and JMP and HALT are JMP_IF_ZERO. -/
theorem pseudoInstructionsDoWhatTheirNamesSay : Obligations.PseudoInstructionsDoWhatTheirNamesSay := by
  intro s a z p
  refine ⟨rfl, ?_, ?_, exec_jmpIfZero p z s, exec_jmpIfZero s.pc z s⟩
  · exact ⟨_, exec_eq_afterCycle .nop s, s.afterCycle_mov_self_readReg 0#4, rfl, keepsAllButRegistersAndPc_afterCycle s _⟩
  · exact ⟨_, exec_eq_afterCycle (.clr a) s, s.afterCycle_readReg_written rfl,
      fun r other => s.afterCycle_readReg_other fun written => other (Option.some.inj written).symm, rfl,
      keepsAllButRegistersAndPc_afterCycle s _⟩

end Sys2Proof.Machine

/-! SUPPORT. The next event, and what a Tick keeps in a running and in a halted state (spec/45_controller_and_loader.md R80, R94,
R99). -/

namespace Sys2Proof.Machine

open Sys2Proof.Safety

theorem State.nextEvent_of_inputs_nil {s : State} (h : s.inputs = []) : s.nextEvent = .tick := by
  rw [State.nextEvent, h, List.headD_nil]

theorem State.nextEvent_of_inputs_cons {s : State} {e : Event} {rest : List Event} (h : s.inputs = e :: rest) :
    s.nextEvent = e := by
  rw [State.nextEvent, h, List.headD_cons]

/-- A Tick in Running mode keeps mode, rate and program, and moves pc as the fetched instruction says (R89, R94). -/
theorem step_of_running {s : State} (mode : s.mode = .running) (event : s.nextEvent = .tick) :
    ∃ t, step s = .next t ∧ t.mode = .running ∧ t.rate = s.rate ∧ (∀ a, t.readWord a = s.readWord a) ∧
      t.inputs = s.inputs.tail ∧ t.pc = pcAfter s.fetch s :=
  ⟨_, (step_of_tick event).trans (performTick_running mode), (s.dropEvent.afterCycle_mode _).trans mode,
    s.dropEvent.afterCycle_rate _, s.dropEvent.afterCycle_readWord _, s.dropEvent.afterCycle_inputs _, pcAfter_dropEvent _ s⟩

/-- The terms of R99: Running, and the word at pc is a JMP_IF_ZERO to itself on a register that is zero. -/
theorem halted_iff (s : State) :
    halted s = true ↔ s.mode = .running ∧ ∃ test, s.fetch = .jmpIfZero s.pc test ∧ s.readReg test = 0#4 := by
  unfold halted
  cases s.fetch with
  | jmpIfZero target test => simp
  | _ => simp

theorem sameCore_trans {s t u : State} (h : SameCore s t) (h' : SameCore t u) : SameCore s u :=
  ⟨fun r => (h'.registers r).trans (h.registers r), h'.pc.trans h.pc, fun a => (h'.words a).trans (h.words a),
    h'.mode.trans h.mode, h'.rate.trans h.rate⟩

/-- Being halted is a matter of the spec's own state. -/
theorem halted_of_sameCore {s t : State} (h : SameCore s t) (halt : halted s = true) : halted t = true := by
  obtain ⟨mode, test, fetch, zero⟩ := (halted_iff s).mp halt
  have fetch' : t.fetch = .jmpIfZero t.pc test := by
    rw [State.fetch, h.pc, h.words]
    exact fetch
  exact (halted_iff t).mpr ⟨h.mode.trans mode, test, fetch', (h.registers test).trans zero⟩

/-- A Tick in a halted state jumps to where pc is, and so changes nothing (R99). -/
theorem step_of_halted {s : State} (halt : halted s = true) (event : s.nextEvent = .tick) :
    ∃ t, step s = .next t ∧ SameCore s t ∧ t.inputs = s.inputs.tail := by
  obtain ⟨mode, test, fetch, zero⟩ := (halted_iff s).mp halt
  obtain ⟨v, next⟩ := step_of_runs (runs_of_fetched event mode fetch)
  exact ⟨_, next, ⟨s.dropEvent.afterCycle_jmpIfZero_readReg s.pc test, pcAfter_jmpIfZero_of_zero zero s.pc,
    fun _ => rfl, rfl, rfl⟩, rfl⟩

end Sys2Proof.Machine

/-! The statements about runs of Ticks (spec/45_controller_and_loader.md R94, R99; spec/20_memory.md R44), each by induction on the
number of Ticks. -/

namespace Sys2Proof.Machine

open Sys2Proof.Safety

/-- Settles O44: with no event to come the step is a Tick, which keeps all that the statement names. -/
theorem runningContinuesUnderTicks : Obligations.RunningContinuesUnderTicks := by
  intro n
  induction n with
  | zero => exact fun s mode inputs => ⟨s, rfl, mode, inputs, rfl, fun _ => rfl⟩
  | succ n ih =>
    intro s mode inputs
    obtain ⟨u, next, mode', rate, words, inputs', -⟩ := step_of_running mode (State.nextEvent_of_inputs_nil inputs)
    obtain ⟨t, run, running, empty, rate', words'⟩ := ih u mode' (by rw [inputs', inputs, List.tail_nil])
    exact ⟨t, (run_succ next).trans run, running, empty, rate'.trans rate, fun a => (words' a).trans (words a)⟩

/-- Settles O45: a Tick leaves the spec's own state as it was, and with it the state halted. -/
theorem haltedStateStaysUnderTicks : Obligations.HaltedStateStaysUnderTicks := by
  intro n
  induction n with
  | zero => exact fun s halt _ => ⟨s, rfl, ⟨fun _ => rfl, rfl, fun _ => rfl, rfl, rfl⟩, halt⟩
  | succ n ih =>
    intro s halt inputs
    obtain ⟨u, next, same, inputs'⟩ := step_of_halted halt (State.nextEvent_of_inputs_cons inputs)
    obtain ⟨t, run, same', halt'⟩ := ih u (halted_of_sameCore same halt) (by rw [inputs', inputs]; rfl)
    exact ⟨t, (run_succ next).trans run, sameCore_trans same same', halt'⟩

/-- Settles O46: without a jump each Tick increments pc, and the program stays without one. -/
theorem programWithoutJumpsWrapsThroughMemory : Obligations.ProgramWithoutJumpsWrapsThroughMemory := by
  intro n
  induction n with
  | zero => exact fun s mode _ _ => ⟨s, rfl, (Nat.mod_eq_of_lt s.pc.isLt).symm, mode⟩
  | succ n ih =>
    intro s mode inputs noJump
    obtain ⟨u, next, mode', -, words, inputs', pc⟩ := step_of_running mode (State.nextEvent_of_inputs_cons inputs)
    obtain ⟨t, run, pc', running⟩ := ih u mode' (by rw [inputs', inputs]; rfl) fun a => words a ▸ noJump a
    have increment : pcAfter s.fetch s = s.pc + 1 :=
      pcAfter_eq_add_one_of_not_taken fun target test isJump => absurd isJump (noJump s.pc target test)
    have advanced : u.pc.toNat = (s.pc.toNat + 1) % 16 := by
      rw [pc, increment]
      exact BitVec.toNat_add s.pc 1
    exact ⟨t, (run_succ next).trans run, by omega, running⟩

end Sys2Proof.Machine

/-! SUPPORT. A step from states that differ in the rate only leads to states that differ in the rate only (spec/10_state.md R25,
R27; spec/70_reset_and_hazards.md R121). -/

namespace Sys2Proof.Machine

/-- A cycle does not read the rate (R25). -/
@[simp] theorem State.afterCycle_setRate (s : State) (r : Rate) (i : Instr) :
    (s.setRate r).afterCycle i = (s.afterCycle i).setRate r := by
  have commutes := s.afterCycle_withModeRatePmem s.mode r s.pmem i
  simpa [State.setRate, State.afterCycle_eq] using commutes

/-- Reset and Run fix the rate, and every other request leaves it as it was (R27, R88, R93). -/
theorem perform_setRate {q : Request} {s t : State} (h : perform q s = .next t) (r : Rate) :
    ∃ r', perform q (s.setRate r) = .next (t.setRate r') := by
  cases q with
  | reset =>
    obtain rfl := Host.Outcome.next.inj h
    exact ⟨Config.defaultRate, rfl⟩
  | run r' =>
    obtain rfl := Host.Outcome.next.inj h
    exact ⟨r', rfl⟩
  | exec f =>
    obtain ⟨u, cycle, rfl⟩ := mapNext_eq_next h
    obtain rfl := eq_of_eq_next (exec_eq_afterCycle _ _) cycle
    refine ⟨r, ?_⟩
    rw [perform, performExec, exec_eq_afterCycle, State.afterCycle_setRate]
    rfl
  | capture f =>
    obtain rfl := Host.Outcome.next.inj h
    refine ⟨r, ?_⟩
    rw [perform, performCapture_eq, performCapture_eq]
    rfl
  | beginCapture | endCapture | stop =>
    obtain rfl := Host.Outcome.next.inj h
    exact ⟨r, rfl⟩

theorem performTick_setRate {s t : State} (h : performTick s = .next t) (r : Rate) :
    performTick (s.setRate r) = .next (t.setRate r) := by
  by_cases mode : s.mode = .running
  · obtain rfl := eq_of_eq_next (performTick_running mode) h
    rw [performTick_running (s := s.setRate r) mode, State.afterCycle_setRate]
    rfl
  · obtain rfl := eq_of_eq_next (performTick_idle mode) h
    exact performTick_idle (s := s.setRate r) mode

/-- The step from a state that differs in the rate only, as the events and the mode are the same. -/
theorem step_setRate {s t : State} (h : step s = .next t) (r : Rate) : ∃ r', step (s.setRate r) = .next (t.setRate r') := by
  cases event : s.nextEvent with
  | tick =>
    rw [step_of_tick event] at h
    exact ⟨r, (step_of_tick (s := s.setRate r) event).trans (performTick_setRate h r)⟩
  | request q =>
    cases accepted : accepts q s.mode with
    | false =>
      obtain rfl := eq_of_eq_next (step_of_refused event accepted) h
      exact ⟨r, step_of_refused (s := s.setRate r) event accepted⟩
    | true =>
      rw [step_of_accepted event accepted] at h
      obtain ⟨r', performed⟩ := perform_setRate h r
      exact ⟨r', (step_of_accepted (s := s.setRate r) event accepted).trans performed⟩

/-- Two runs from states that differ in the rate only stay so, however long they are (R121). -/
theorem run_setRate (n : Nat) (s : State) (r : Rate) :
    ∃ t r', Host.Core.run core n s = .next t ∧ Host.Core.run core n (s.setRate r) = .next (t.setRate r') := by
  induction n generalizing s r with
  | zero => exact ⟨s, r, rfl, rfl⟩
  | succ n ih =>
    obtain ⟨u, next, -⟩ := step_stepsTo s
    obtain ⟨r', next'⟩ := step_setRate next r
    obtain ⟨t, r'', run, run'⟩ := ih u r'
    exact ⟨t, r'', (run_succ next).trans run, (run_succ next').trans run'⟩

end Sys2Proof.Machine

/-! The statement about the rate (spec/70_reset_and_hazards.md R121). -/

namespace Sys2Proof.Machine

/-- Settles O47: the two runs end in states that differ in the rate only, which neither snapshot nor response shows. -/
theorem rateAffectsNoSnapshotAndNoResponse : Obligations.RateAffectsNoSnapshotAndNoResponse := by
  intro n s r
  obtain ⟨t, r', run, run'⟩ := run_setRate n s r
  exact ⟨t, t.setRate r', run, run', rfl, rfl, rfl⟩

end Sys2Proof.Machine

/-! SUPPORT. The loader's runs (spec/45_controller_and_loader.md R84 to R86, R92; spec/70_reset_and_hazards.md R117): the captures
by induction on their number, each by the statement about one Capture, and the shape of the event sequences. -/

namespace Sys2Proof.Machine

/-- A run and one step more. -/
theorem run_then_step {n : Nat} {s t u : State} (run : Host.Core.run core n s = .next t) (next : step t = .next u) :
    Host.Core.run core (n + 1) s = .next u :=
  (run_add_of_run core (n := 1) run).trans (run_succ next)

/-- `t` is `s` with `words` placed from address 0 on, as far as registers, rate and program memory go. -/
structure LoadedOver (words : List Fields) (s t : State) : Prop where
  rate : t.rate = s.rate
  registers : ∀ r, t.readReg r = s.readReg r
  captured : ∀ (a : PAddr) (f : Fields), words[a.toNat]? = some f → t.readWord a = encodeFields f
  kept : ∀ a : PAddr, words.length ≤ a.toNat → t.readWord a = s.readWord a

/-- With nothing placed, it is enough that nothing changed. -/
theorem loadedOver_nil {s t : State} (rate : t.rate = s.rate) (registers : ∀ r, t.readReg r = s.readReg r)
    (words : ∀ a, t.readWord a = s.readWord a) : LoadedOver [] s t :=
  ⟨rate, registers, nofun, fun a _ => words a⟩

/-- One word more, placed at the address after the last (R85). -/
theorem LoadedOver.append_singleton {words : List Fields} {s t u : State} (h : LoadedOver words s t) {f : Fields} {p : PAddr}
    (next : p.toNat = words.length) (rate : u.rate = t.rate) (registers : ∀ r, u.readReg r = t.readReg r)
    (written : u.readWord p = encodeFields f) (others : ∀ a, a ≠ p → u.readWord a = t.readWord a) :
    LoadedOver (words ++ [f]) s u := by
  refine ⟨rate.trans h.rate, fun r => (registers r).trans (h.registers r), fun a g placed => ?_, fun a above => ?_⟩
  · by_cases here : a = p
    · subst here
      obtain rfl : f = g := by simpa [next] using placed
      exact written
    · have distinct : a.toNat ≠ words.length := fun e => here (BitVec.eq_of_toNat_eq (e.trans next.symm))
      have bound := (List.getElem?_eq_some_iff.mp placed).1
      rw [List.length_append, List.length_singleton] at bound
      rw [List.getElem?_append_left (by omega)] at placed
      exact (others a here).trans (h.captured a g placed)
  · rw [List.length_append, List.length_singleton] at above
    have here : a ≠ p := by rintro rfl; omega
    rw [others a here, h.kept a (by omega)]

/-- The captures after Begin: each word is placed in order, and the sixteenth capture returns to Interactive mode (R85, R86). -/
theorem run_captureEvents {s b : State} {words : List Fields} {rest : List Event} (mode : b.mode = .programming)
    (pc : b.pc = 0#4) (start : LoadedOver [] s b) (fits : words.length ≤ 16) (inputs : b.inputs = captureEvents words ++ rest) :
    ∃ t, Host.Core.run core words.length b = .next t ∧ t.inputs = rest ∧ t.pc.toNat = words.length % 16 ∧
      t.mode = (if words.length = 16 then .interactive else .programming) ∧ LoadedOver words s t := by
  induction words using List.reverseRecOn generalizing rest with
  | nil => exact ⟨b, rfl, inputs, by rw [pc]; rfl, mode, start⟩
  | append_singleton words f ih =>
    rw [List.length_append, List.length_singleton] at fits ⊢
    obtain ⟨t, run, inputs', pc', mode', loaded⟩ :=
      ih (rest := .request (.capture f) :: rest) (by omega) (by simpa [captureEvents] using inputs)
    rw [if_neg (by omega)] at mode'
    obtain ⟨u, next, written, others, -, pc'', last, below, rate, inputs'', registers⟩ :=
      captureWritesAtPcAndAdvances t f mode' (State.nextEvent_of_inputs_cons inputs')
    have here : t.pc.toNat = words.length := by omega
    have atTop : t.pc = 15#4 ↔ words.length + 1 = 16 := by
      rw [← BitVec.toNat_inj, here]
      exact (Nat.succ_inj (a := words.length) (b := 15)).symm
    refine ⟨u, run_then_step run next, by rw [inputs'', inputs', List.tail_cons], by omega, ?_,
      loaded.append_singleton here rate registers written others⟩
    split
    · next full => exact last (atTop.mpr full)
    · next short => exact below (mt atTop.mp short)

/-- Sixteen words need no End (R86). -/
theorem loadEvents_of_full {words : List Fields} (full : words.length = 16) :
    loadEvents words = .request .beginCapture :: captureEvents words := by
  simp [loadEvents, full]

/-- Fewer words need one (R92). -/
theorem loadEvents_of_short {words : List Fields} (short : words.length < 16) :
    loadEvents words = .request .beginCapture :: (captureEvents words ++ [.request .endCapture]) := by
  simp [loadEvents, short]

@[simp] theorem captureEvents_length (words : List Fields) : (captureEvents words).length = words.length := by
  simp [captureEvents]

theorem bootEvents_append (words : List Fields) (r : Rate) (rest : List Event) :
    bootEvents words r ++ rest = .request .reset :: (loadEvents words ++ .request (.run r) :: rest) := by
  simp [bootEvents]

theorem bootEvents_length (words : List Fields) (r : Rate) :
    (bootEvents words r).length = (loadEvents words).length + 1 + 1 := by
  simp [bootEvents]

end Sys2Proof.Machine

/-! The statements about loading and booting (spec/45_controller_and_loader.md section 3; spec/70_reset_and_hazards.md R117, R118),
put together from the statements about the single requests. -/

namespace Sys2Proof.Machine

/-- Settles O48: Begin, the captures, and End where fewer than sixteen captures leave the core in Programming mode. -/
theorem loaderPlacesCapturedWordsInOrder : Obligations.LoaderPlacesCapturedWordsInOrder := by
  intro s words rest mode fits inputs
  have event : s.nextEvent = .request .beginCapture := by rw [State.nextEvent, inputs]; rfl
  obtain ⟨b, begun, programming, pc, -, rate, inputs', registers, kept⟩ :=
    beginEntersProgrammingAtAddressZero s mode event
  have captures {rest' : List Event} (inputs'' : b.inputs = captureEvents words ++ rest') :=
    run_captureEvents programming pc (loadedOver_nil rate registers kept) fits inputs''
  obtain full | short := Nat.eq_or_lt_of_le fits
  · rw [loadEvents_of_full full] at inputs ⊢
    obtain ⟨t, run, left, pc', mode', loaded⟩ := captures (by rw [inputs', inputs]; rfl)
    rw [full] at pc'
    rw [if_pos full] at mode'
    refine ⟨t, ?_, mode', BitVec.eq_of_toNat_eq pc', left, loaded.rate, loaded.registers, loaded.captured, loaded.kept⟩
    rw [List.length_cons, captureEvents_length, run_succ begun, run]
  · rw [loadEvents_of_short short] at inputs ⊢
    obtain ⟨t, run, left, -, mode', loaded⟩ :=
      captures (rest' := .request .endCapture :: rest) (by rw [inputs', inputs]; simp)
    rw [if_neg short.ne] at mode'
    obtain ⟨u, ended, interactive, pc', -, rate', inputs'', registers', kept'⟩ :=
      endLeavesProgrammingAndKeepsWords t mode' (State.nextEvent_of_inputs_cons left)
    refine ⟨u, ?_, interactive, pc', by rw [inputs'', left, List.tail_cons], rate'.trans loaded.rate,
      fun r => (registers' r).trans (loaded.registers r), fun a f placed => (kept' a).trans (loaded.captured a f placed),
      fun a above => (kept' a).trans (loaded.kept a above)⟩
    rw [List.length_cons, List.length_append, captureEvents_length, run_succ begun]
    exact run_then_step run ended

/-- Settles O49: Reset, the loading of O48 from the reset state, and Run. -/
theorem bootSequenceStartsTheLoadedWords : Obligations.BootSequenceStartsTheLoadedWords := by
  intro s words r rest loads inputs
  have fits : words.length ≤ 16 := by simp [loadable] at loads; omega
  rw [bootEvents_append] at inputs
  obtain ⟨z, reset, zeroRegisters, zeroWords, -, mode, -, -, inputs', -⟩ :=
    resetZeroesTheMachineFromEveryState s (State.nextEvent_of_inputs_cons inputs)
  obtain ⟨t, load, mode', -, left, -, registers, captured, kept⟩ :=
    loaderPlacesCapturedWordsInOrder z words (.request (.run r) :: rest) mode fits (by rw [inputs', inputs, List.tail_cons])
  obtain ⟨u, started, running, pc, rate, resp, inputs'', registers', words'⟩ :=
    runEntersRunningAtAddressZero t r mode' (State.nextEvent_of_inputs_cons left)
  refine ⟨u, ?_, running, pc, rate, resp, by rw [inputs'', left, List.tail_cons],
    fun q => (registers' q).trans ((registers q).trans (zeroRegisters q)),
    fun a f placed => (words' a).trans (captured a f placed),
    fun a above => (words' a).trans ((kept a above).trans (zeroWords a))⟩
  rw [bootEvents_length, run_succ reset]
  exact run_then_step load started

end Sys2Proof.Machine

/-! SUPPORT. What the next step fetches where a word has been placed for it (log entry 5). -/

namespace Sys2Proof.Machine

/-- A word is its own table word, as it has no bit above its 11. -/
@[simp] theorem tableWord_toNat (w : Word) : tableWord 11 w.toNat = w := by
  rw [tableWord, Nat.mod_eq_of_lt w.isLt, BitVec.ofNat_toNat, BitVec.setWidth_eq]

/-- The number of a word is in the decoder's range and decodes as the word does (R58). -/
@[simp] theorem decodeNat_toNat (w : Word) : decodeNat w.toNat = .ok (decode w) := by
  rw [decodeNat, if_pos w.isLt, BitVec.ofNat_toNat, BitVec.setWidth_eq]

@[simp] theorem decodeTableWord_toNat (w : Word) : decodeTableWord 11 w.toNat = some (decode w) := by
  rw [decodeTableWord, Nat.mod_eq_of_lt w.isLt, decodeNat_toNat]

/-- The Tick put first is the next event, and the events to come stay after it. -/
theorem State.placeFetchWord_events (s : State) (w : Word) :
    (s.placeFetchWord w).nextEvent = .tick ∧ (s.placeFetchWord w).dropEvent.inputs = s.inputs := by
  cases h : s.inputs <;> simp [State.placeFetchWord, State.nextEvent, tickFirst, h]

/-- The placed word is the one fetched. -/
theorem State.placeFetchWord_fetch (s : State) (w : Word) : (s.placeFetchWord w).fetch = decode w := by
  have placed : (s.writeWord s.pc w).readWord s.pc = w := (s.readWord_writeWord s.pc s.pc w).trans (if_pos rfl)
  exact congrArg decode placed

end Sys2Proof.Machine

/-! The statements about two instructions in a row (spec/70_reset_and_hazards.md R119, R120) and about the word placed for the next
fetch (log entry 5). -/

namespace Sys2Proof.Machine

open Sys2Proof.Safety

/-- Settles O50: both steps are cycles, the first leaves its value in the register, and the jump's cycle reads it there. -/
theorem jumpSeesTheRegisterWrittenJustBefore : Obligations.JumpSeesTheRegisterWrittenJustBefore := by
  intro s u i dst target runs writes next runsJump
  obtain ⟨v, cycle⟩ := step_of_runs runs
  obtain rfl := eq_of_eq_next cycle next
  obtain ⟨v', jump⟩ := step_of_runs runsJump
  have written : (s.afterCycle i).readReg dst = valueWritten i s := s.afterCycle_readReg_written writes
  have seen : (s.dropEvent.afterCycle i).readReg dst = (s.afterCycle i).readReg dst := by
    rw [written, s.dropEvent.afterCycle_readReg_written writes, valueWritten_dropEvent]
  refine ⟨_, _, exec_eq_afterCycle i s, (run_succ next).trans (run_succ jump), seen, ?_, fun zero => ?_, fun nonzero => ?_, ?_⟩
  · exact (State.afterCycle_jmpIfZero_readReg _ target dst dst).trans seen
  · exact pcAfter_jmpIfZero_of_zero (seen.trans zero) target
  · have untaken : pcAfter (.jmpIfZero target dst) (s.dropEvent.afterCycle i) = (s.dropEvent.afterCycle i).pc + 1 :=
      if_neg fun zero => nonzero (seen.symm.trans zero)
    have first : (s.dropEvent.afterCycle i).pc = s.pc + 1 := pcAfter_eq_add_one_of_registerWritten writes s.dropEvent
    rw [first, BitVec.add_assoc] at untaken
    exact untaken
  · rintro value rfl
    exact written

/-- Settles O52: the step from the placed state is the fetch of the word, over the state whose Tick has been taken. -/
theorem placedFetchWordRunsNext : Obligations.PlacedFetchWordRunsNext := by
  intro s w i table
  obtain rfl : decode w = i := Option.some.inj ((decodeTableWord_toNat w).symm.trans table)
  obtain ⟨tick, events⟩ := s.placeFetchWord_events w
  refine ⟨(s.placeFetchWord w).dropEvent, events, rfl, rfl, rfl, rfl, ?_⟩
  rw [State.withFetchWord, tableWord_toNat, step_of_fetched tick rfl, State.placeFetchWord_fetch]

end Sys2Proof.Machine
